-- ==== Sys2Proof/Word.lean ====
section
/-! DEFINITION. The words of base64_decoder_fsm: the input and output byte, the 6-bit group value, the command word. -/

namespace Sys2Proof

/-- An input byte, an output byte, or one entry of the classification table (R8(a), R74). -/
abbrev Byte := BitVec 8

/-- A 6-bit group value (R8(b)). -/
abbrev Sextet := BitVec 6

/-- The command word `CMD`: `valid` in bit 10, `op` in bits 9..8, `data` in bits 7..0 (R70). -/
abbrev CmdWord := BitVec 11

end Sys2Proof
end

