-- ==== Sys2Proof/Config.lean ====
section
/-! DEFINITION. What the block is built with (R7, R31) and the host's buffer length (R61). Plain data: `State.cfg` carries it
unchanged, so a statement about every state is a statement about every width, table and buffer length. No free value is
needed: the rules give every value the block produces. -/

namespace Sys2Proof

/-- The classification table `LUT`: 256 entries of 8 bits (R31, R41). -/
abbrev Lut := Vector Byte 256

/-- The named parameters of the block and of its host. -/
structure Config where
  /-- `IDX_W`: the width of `idx` and `err_offset` (R7). -/
  idxW : Nat
  /-- `ADDR_W`: the width of `cursor` and `wr_addr` (R7). -/
  addrW : Nat
  /-- `LUT` (R31). -/
  lut : Lut
  /-- `OUT_LEN`: the length of the host's output buffer (R61); the block does not know it. -/
  outLen : Nat
deriving DecidableEq, Repr

/-- The legal values of R7: `IDX_W ≥ 1`, `ADDR_W ≥ 2`, any table. -/
def Config.wf (c : Config) : Bool := decide (1 ≤ c.idxW) && decide (2 ≤ c.addrW)

end Sys2Proof
end

