-- ==== Sys2Proof/Machine/Operands.lean ====
section
/-! DEFINITION. Operands of `BYTE`: the table read, its classification (alphabet_classify_lut, R90), the check `WF_LUT` (R32)
and the Standard table (R94). -/

namespace Sys2Proof.Machine

/-- The outcome of consulting the alphabet (R75, R91). -/
inductive Classification where
  | value (v : Sextet)
  | skip
  | pad
  | invalid
deriving DecidableEq, Repr

/-- `LutRead(b)`: entry `b` of the table, `b` zero-extended as the index (R12, R81, R90). -/
def lutRead (lut : Lut) (b : Byte) : Byte := lut[b.toNat]'b.isLt

/-- `E[5:0]`, the value field of a table entry (R74). -/
def entryVal (e : Byte) : Sextet := e.extractLsb' 0 6

/-- `E[7:6]`, the class field of a table entry (R74). -/
def entryCls (e : Byte) : BitVec 2 := e.extractLsb' 6 2

/-- The class codes of R75; the value field counts for `Value` only (R76). -/
def classifyEntry (e : Byte) : Classification :=
  if entryCls e = 0#2 then .value (entryVal e)
  else if entryCls e = 1#2 then .skip
  else if entryCls e = 2#2 then .pad
  else .invalid

/-- `CLASSIFY(b)` (R90): a function of the byte and the table alone. -/
def classify (lut : Lut) (b : Byte) : Classification := classifyEntry (lutRead lut b)

/-- The values of the entries of class `Value`, in table order. -/
def tableValues (lut : Lut) : List Sextet :=
  lut.toList.filterMap fun e => match classifyEntry e with
    | .value v => some v
    | _ => none

/-- `WF_LUT` (R32): each of the 64 values has exactly one byte of class `Value`. -/
def wfLut (lut : Lut) : Bool :=
  (List.range 64).all fun v => (tableValues lut).count (BitVec.ofNat 6 v) == 1

/-- Rows 0 to 3 of the 16 × 16 grid of R94. -/
def standardRows03 : List Byte :=
  [0xC0, 0xC0, 0xC0, 0xC0, 0xC0, 0xC0, 0xC0, 0xC0, 0xC0, 0x40, 0x40, 0xC0, 0xC0, 0x40, 0xC0, 0xC0] ++
  List.replicate 16 0xC0 ++
  [0xC0, 0xC0, 0xC0, 0xC0, 0xC0, 0xC0, 0xC0, 0xC0, 0xC0, 0xC0, 0xC0, 0x3E, 0xC0, 0xC0, 0xC0, 0x3F] ++
  [0x34, 0x35, 0x36, 0x37, 0x38, 0x39, 0x3A, 0x3B, 0x3C, 0x3D, 0xC0, 0xC0, 0xC0, 0x80, 0xC0, 0xC0]

/-- Rows 4 to 7 of the grid of R94. -/
def standardRows47 : List Byte :=
  [0xC0, 0x00, 0x01, 0x02, 0x03, 0x04, 0x05, 0x06, 0x07, 0x08, 0x09, 0x0A, 0x0B, 0x0C, 0x0D, 0x0E] ++
  [0x0F, 0x10, 0x11, 0x12, 0x13, 0x14, 0x15, 0x16, 0x17, 0x18, 0x19, 0xC0, 0xC0, 0xC0, 0xC0, 0xC0] ++
  [0xC0, 0x1A, 0x1B, 0x1C, 0x1D, 0x1E, 0x1F, 0x20, 0x21, 0x22, 0x23, 0x24, 0x25, 0x26, 0x27, 0x28] ++
  [0x29, 0x2A, 0x2B, 0x2C, 0x2D, 0x2E, 0x2F, 0x30, 0x31, 0x32, 0x33, 0xC0, 0xC0, 0xC0, 0xC0, 0xC0]

/-- The entries of the Standard table (R94); rows 8 to F are all `Invalid`. -/
def standardEntries : List Byte := standardRows03 ++ standardRows47 ++ List.replicate 128 0xC0

theorem standardRows03_length : standardRows03.length = 64 := by decide

theorem standardRows47_length : standardRows47.length = 64 := by decide

theorem standardEntries_length : standardEntries.length = 256 := by
  simp only [standardEntries, List.length_append, List.length_replicate, standardRows03_length, standardRows47_length]

/-- The Standard table, the default `LUT` (R7, R94). -/
def standardLut : Lut := ⟨⟨standardEntries⟩, by simpa using standardEntries_length⟩

end Sys2Proof.Machine
end

