-- ==== Sys2Proof/Syntax.lean ====
section
/-! DEFINITION. The commands of B64DEC-CMD v1: one constructor per row of spec/opcode_table.json. Bits that a command ignores
(R70, R72) are kept as its argument, so that no bit of a word is lost in decoding. -/

namespace Sys2Proof

/-- The nine rows of the opcode table. -/
inductive Instr where
  /-- `NOP`: `valid = 0`, the other ten bits ignored (R101). -/
  | nop (ignored : BitVec 10)
  /-- `START`: begin a decode call; `data` ignored (R102). -/
  | start (ignored : Byte)
  /-- `BYTE b`: the common part, as the command word gives it (R103). -/
  | byte (b : Byte)
  /-- `BYTE.VALUE`: a byte of class `Value` (R106). -/
  | byteValue (b : Byte)
  /-- `BYTE.SKIP`: a byte of class `Skip` (R104). -/
  | byteSkip (b : Byte)
  /-- `BYTE.PAD`: a byte of class `Pad` (R105). -/
  | bytePad (b : Byte)
  /-- `BYTE.INVALID`: a byte of class `Invalid` (R107). -/
  | byteInvalid (b : Byte)
  /-- `FINISH`: end of input; `data` ignored (R130). -/
  | finish (ignored : Byte)
  /-- `RSVD`: the reserved opcode; `data` ignored (R108). -/
  | rsvd (ignored : Byte)
deriving DecidableEq, Repr

end Sys2Proof
end

