-- ==== Sys2Proof/WellFormed.lean ====
section
/-! DEFINITION. Which instructions a decoder can issue (R73, R84): a form of `BYTE` stands for a byte of its class in an open
call; the common `BYTE` stands for a byte outside one, where nothing is classified (R109). -/

namespace Sys2Proof

open Machine

/-- Well-formed for the table `lut`; `busy` says whether a call is open (phase `BUSY`). -/
def Instr.wf (lut : Lut) (busy : Bool) : Instr → Bool
  | .nop _ => true
  | .start _ => true
  | .byte _ => !busy
  | .byteValue b => busy && decide (classify lut b = .value (entryVal (lutRead lut b)))
  | .byteSkip b => busy && decide (classify lut b = .skip)
  | .bytePad b => busy && decide (classify lut b = .pad)
  | .byteInvalid b => busy && decide (classify lut b = .invalid)
  | .finish _ => true
  | .rsvd _ => true

end Sys2Proof
end

