-- ==== Sys2Proof/Decode.lean ====
section
/-! DEFINITION. Decoding of command words, total in two levels (R70 to R73, R84), the rejection of what is no 11-bit word, and
the encoder. -/

namespace Sys2Proof

open Machine

/-- First level (R84 steps 2 and 3): `valid`, then `op`. Every one of the 2048 words has a meaning (R82(g)). -/
def decodeCmd (w : CmdWord) : Instr :=
  if w.extractLsb' 10 1 = 0#1 then .nop (w.extractLsb' 0 10)
  else if w.extractLsb' 8 2 = 0#2 then .start (w.extractLsb' 0 8)
  else if w.extractLsb' 8 2 = 1#2 then .byte (w.extractLsb' 0 8)
  else if w.extractLsb' 8 2 = 2#2 then .finish (w.extractLsb' 0 8)
  else .rsvd (w.extractLsb' 0 8)

/-- The form of a classified byte (R73, R75). -/
def formOf (b : Byte) : Classification → Instr
  | .value _ => .byteValue b
  | .skip => .byteSkip b
  | .pad => .bytePad b
  | .invalid => .byteInvalid b

/-- Second level (R84 step 4): the class of `LutRead(b)` selects one of the four forms of `BYTE`. -/
def selectForm (lut : Lut) : Instr → Instr
  | .byte b => formOf b (classify lut b)
  | .nop x => .nop x
  | .start x => .start x
  | .byteValue b => .byteValue b
  | .byteSkip b => .byteSkip b
  | .bytePad b => .bytePad b
  | .byteInvalid b => .byteInvalid b
  | .finish x => .finish x
  | .rsvd x => .rsvd x

/-- The decoder: the second level applies in an open call only (R84 step 5, R103); outside one a byte is not classified (R109). -/
def decode (lut : Lut) (busy : Bool) (w : CmdWord) : Instr :=
  if busy then selectForm lut (decodeCmd w) else decodeCmd w

/-- Why a number is no command. -/
inductive DecodeReject where
  /-- The number does not fit the one 11-bit format (R83). -/
  | notElevenBits
deriving DecidableEq, Repr

/-- First-level decoding of a number, bit 0 its least significant bit: a command word, or rejected by name (R70, R83). -/
def decodeNat (w : Nat) : Except DecodeReject Instr :=
  if w < 2 ^ 11 then .ok (decodeCmd (BitVec.ofNat 11 w)) else .error .notElevenBits

/-- The instruction the decoder reads from the table's `nbits` bits `w`. A word of `BYTE` is given as the common `BYTE`, whose
table row has the same bits as its four forms: the form depends on `LUT`, not on the command bits (R73). -/
def decodeTableWord (nbits w : Nat) : Option Instr :=
  match decodeNat (w % 2 ^ nbits) with
  | .ok i => some i
  | .error _ => none

/-- The word of an instruction (R70, R71): `{valid, op, data}`, ignored bits as the instruction holds them. -/
def encode : Instr → CmdWord
  | .nop x => 0#1 ++ x
  | .start x => 4#3 ++ x
  | .byte b => 5#3 ++ b
  | .byteValue b => 5#3 ++ b
  | .byteSkip b => 5#3 ++ b
  | .bytePad b => 5#3 ++ b
  | .byteInvalid b => 5#3 ++ b
  | .finish x => 6#3 ++ x
  | .rsvd x => 7#3 ++ x

end Sys2Proof
end

