-- ==== Sys2Proof/Machine/Regs.lean ====
section
/-! DEFINITION. The block's registers (R20), their codes (R77 to R79) and their values after reset (R38). -/

namespace Sys2Proof.Machine

/-- The call phase (R21). -/
inductive Phase where
  /-- No call started since reset. -/
  | idle
  /-- A call is open. -/
  | busy
  /-- The last call ended in success. -/
  | done
  /-- The last call ended in `InvalidInput`. -/
  | err
deriving DecidableEq, Repr

/-- The source's DecodeState (R22). Code `2'b11` has no constructor: no rule writes it (R77). -/
inductive DState where
  | data
  | pad1
  | pad2
deriving DecidableEq, Repr

/-- The diagnostic cause (R79). Codes 5 to 7 have no constructor: none is produced. -/
inductive ErrCause where
  | none
  | invalidByte
  | valueAfterPad
  | thirdPad
  | malformedTail
deriving DecidableEq, Repr

/-- R78. -/
def phaseCode : Phase → BitVec 2
  | .idle => 0
  | .busy => 1
  | .done => 2
  | .err => 3

/-- R77: the code read as a number is the source's `padCount`. -/
def dstateCode : DState → BitVec 2
  | .data => 0
  | .pad1 => 1
  | .pad2 => 2

/-- R79. -/
def causeCode : ErrCause → BitVec 3
  | .none => 0
  | .invalidByte => 1
  | .valueAfterPad => 2
  | .thirdPad => 3
  | .malformedTail => 4

/-- Every register of R20 but the write port: the `S` of R100. `iw` is `IDX_W`, `aw` is `ADDR_W`. -/
structure Regs (iw aw : Nat) where
  phase : Phase
  dstate : DState
  /-- Filled group slots, 0 to 3 (R23, R24). -/
  cnt : BitVec 2
  g0 : Sextet
  g1 : Sextet
  g2 : Sextet
  /-- Index of the next input byte of the call (R25). -/
  idx : BitVec iw
  /-- Bytes written in this call, and the offset of the next write (R26). -/
  cursor : BitVec aw
  errOffset : BitVec iw
  errCause : ErrCause
  /-- Sticky: the host broke the protocol (R29). -/
  protoErr : Bool
deriving DecidableEq, Repr

/-- The write-port registers (R30, R80). -/
structure WritePort (aw : Nat) where
  valid : Bool
  addr : BitVec aw
  /-- Lane 0 in bits 23..16, lane 1 in 15..8, lane 2 in 7..0 (R55). -/
  data : BitVec 24
  len : BitVec 2
deriving DecidableEq, Repr

/-- `MemWrite(addr, k, bytes)`, `k` the number of bytes, 1 to 3 (R12). -/
structure WriteEvent (aw : Nat) where
  addr : BitVec aw
  bytes : List Byte
deriving DecidableEq, Repr

/-- What the host drives in one cycle: `rst` and the command word (R34, R70). -/
structure PortIn where
  rst : Bool
  cmd : CmdWord
deriving DecidableEq, Repr

/-- The column "after `rst`" of R38. -/
def resetRegs (iw aw : Nat) : Regs iw aw :=
  { phase := .idle, dstate := .data, cnt := 0, g0 := 0, g1 := 0, g2 := 0, idx := 0, cursor := 0,
    errOffset := 0, errCause := .none, protoErr := false }

/-- No event: all four registers 0 (R30, R80). -/
def idlePort (aw : Nat) : WritePort aw := { valid := false, addr := 0, data := 0, len := 0 }

/-- A cycle in which the host presents nothing: `rst = 0`, `CMD = 0x000`. -/
def idleInput : PortIn := { rst := false, cmd := 0 }

/-- The defaults this hardware takes (R7). `OUT_LEN` has none: the whole output space (DESIGN CHOICE, unsafe, log entry 4). -/
def defaultConfig (lut : Lut) : Config := { idxW := 32, addrW := 32, lut := lut, outLen := 2 ^ 32 }

end Sys2Proof.Machine
end

