-- ==== Sys2Proof/Machine/Packer.lean ====
section
/-! DEFINITION. group_accumulator_and_packer (R140 to R148): operations on the registers, each with the write event it causes. -/

namespace Sys2Proof.Machine

variable {iw aw : Nat}

/-- The 24-bit word of `pack` (R142). -/
def packWord (a b c d : Sextet) : BitVec 24 :=
  (a.setWidth 24 <<< 18) ||| (b.setWidth 24 <<< 12) ||| (c.setWidth 24 <<< 6) ||| d.setWidth 24

/-- `pack(a, b, c, d)`: the three bytes, most significant first (R142, R53). -/
def pack (a b c d : Sextet) : List Byte :=
  [(packWord a b c d).extractLsb' 16 8, (packWord a b c d).extractLsb' 8 8, (packWord a b c d).extractLsb' 0 8]

/-- `EMIT_FULL` (R144): write the packed group at the cursor, advance by 3, empty the group; the slots become stale. -/
def emitFull (r : Regs iw aw) (a b c d : Sextet) : Regs iw aw × Option (WriteEvent aw) :=
  ({ r with cursor := r.cursor + 3, cnt := 0 }, some { addr := r.cursor, bytes := pack a b c d })

/-- `EMIT_TRUNCATED` (R145): write the first `keep` packed bytes at the cursor; `cnt` is not changed. -/
def emitTruncated (r : Regs iw aw) (a b c d : Sextet) (keep : Nat) : Regs iw aw × Option (WriteEvent aw) :=
  ({ r with cursor := r.cursor + BitVec.ofNat aw keep },
   some { addr := r.cursor, bytes := (pack a b c d).take keep })

/-- `g[cnt] <- v` for `cnt < 3` (R140). -/
def setSlot (r : Regs iw aw) (v : Sextet) : Regs iw aw :=
  if r.cnt = 0#2 then { r with g0 := v }
  else if r.cnt = 1#2 then { r with g1 := v }
  else { r with g2 := v }

/-- `GROUP_APPEND(v)` (R140): fill a slot, or complete the group with `v` as its fourth value, which no slot stores. -/
def groupAppend (r : Regs iw aw) (v : Sextet) : Regs iw aw × Option (WriteEvent aw) :=
  if r.cnt = 3#2 then emitFull r r.g0 r.g1 r.g2 v
  else ({ setSlot r v with cnt := r.cnt + 1 }, none)

end Sys2Proof.Machine
end

