-- ==== Sys2Proof/Machine/State.lean ====
section
/-! DEFINITION. The state of the block and of the host it works for, as plain data, and the reset state. -/

namespace Sys2Proof.Machine

/-- The host's output buffer: the listed offsets, strictly rising. An unlisted offset holds the host's prior contents, which the
model does not know (R63): reading it gives no value (log entry 3). -/
abbrev Memory := List Host.Cell

/-- Block and host between two clock edges. The registers are as R20 lists them (`regs` and `wr`); `cfg` is configuration, which
no step changes (R31, R97); `buf` and `inputs` are the host's (R33). -/
structure State where
  cfg : Config
  regs : Regs cfg.idxW cfg.addrW
  wr : WritePort cfg.addrW
  buf : Memory
  /-- What the host will drive, one entry a cycle, oldest first; after the last it idles (DESIGN CHOICE, log entry 2). -/
  inputs : List PortIn
deriving DecidableEq, Repr

/-- Why the machine stops. -/
inductive Fault where
  /-- Raised by `step` when the write port shows an event with a lane at an offset `≥ OUT_LEN` (R61). Safe: the hardware would
  write out of bounds. -/
  | outputOverrun
deriving DecidableEq, Repr

/-- Why an instruction has no meaning. -/
inductive Refusal where
  /-- Raised by an arm of `exec` whose instruction has no meaning yet; safe. No arm raises it. -/
  | notModelled (mnemonic : String)
deriving DecidableEq, Repr

/-- The machine right after reset (R38, R170), built with the defaults of R7, its port idle. -/
def State.reset : State :=
  { cfg := defaultConfig standardLut, regs := resetRegs 32 32, wr := idlePort 32, buf := [], inputs := [] }

end Sys2Proof.Machine
end

