-- ==== Sys2Proof/Machine/Ops.lean ====
section
/-! DEFINITION. The shared operations: the host's buffer, the write port, error entry and the clean call, and the frame of a step
(R100). -/

namespace Sys2Proof.Machine

variable {iw aw : Nat}

/-- The canonical form: offsets strictly rising. -/
def Memory.wf (m : Memory) : Bool := decide (m.Pairwise fun c d => c.1 < d.1)

/-- The byte at an offset; none where the host's prior contents stand (R63, log entry 3). -/
def Memory.read : Memory → Nat → Option Byte
  | [], _ => none
  | (k, v) :: m, a => if k = a then some v else Memory.read m a

/-- Store one byte. -/
def Memory.write : Memory → Nat → Byte → Memory
  | [], a, b => [(a, b)]
  | (k, v) :: m, a, b =>
    if a < k then (a, b) :: (k, v) :: m
    else if a = k then (a, b) :: m
    else (k, v) :: Memory.write m a b

/-- `wr_data` from the bytes of an event: lane 0 uppermost, unused lanes 0 (R55). -/
def lanesOf (bytes : List Byte) : BitVec 24 := bytes.getD 0 0 ++ bytes.getD 1 0 ++ bytes.getD 2 0

/-- The write-port registers a step leaves (R100, R30): its event, or all 0. -/
def present : Option (WriteEvent aw) → WritePort aw
  | none => idlePort aw
  | some e => { valid := true, addr := e.addr, data := lanesOf e.bytes, len := BitVec.ofNat 2 e.bytes.length }

/-- Offset of lane `k`: modulo 2^`ADDR_W` (R55). -/
def laneOffset (p : WritePort aw) (k : Nat) : Nat := (p.addr + BitVec.ofNat aw k).toNat

/-- What the port writes while it shows an event: the first `wr_len` lanes, each with its offset (R55). -/
def portLanes (p : WritePort aw) : List (Nat × Byte) :=
  if p.valid then
    [(laneOffset p 0, p.data.extractLsb' 16 8), (laneOffset p 1, p.data.extractLsb' 8 8),
     (laneOffset p 2, p.data.extractLsb' 0 8)].take p.len.toNat
  else []

/-- An event reaches past the host's buffer (R61). -/
def overruns (outLen : Nat) (p : WritePort aw) : Bool := (portLanes p).any fun l => decide (outLen ≤ l.1)

/-- The buffer once the event on the port is applied: all its bytes together (R55, R58). -/
def applyPort (p : WritePort aw) (m : Memory) : Memory :=
  (portLanes p).foldl (fun m l => m.write l.1 l.2) m

/-- The buffer at the end of the cycle that shows `s`: the host applies the presented event in that cycle (R30). -/
def State.bufferView (s : State) : Memory := applyPort s.wr s.buf

/-- What the host drives in this cycle. -/
def State.portIn (s : State) : PortIn := s.inputs.headD idleInput

/-- The state at the clock edge: the presented event applied, this cycle's inputs taken off the list. Nothing else changes the buffer:
the host's own writes, which R174 forbids only during `BUSY`, are left out (DESIGN CHOICE, unsafe, log entry 6). -/
def State.atEdge (s : State) : State := { s with buf := s.bufferView, inputs := s.inputs.tail }

/-- A step's result: its registers and its event, all written together at the edge (R100). -/
def commit (s : State) (e : Regs s.cfg.idxW s.cfg.addrW × Option (WriteEvent s.cfg.addrW)) :
    Host.Outcome State Fault Refusal :=
  .next { s with regs := e.1, wr := present e.2 }

/-- An edge with `rst = 1`: every element at its reset value, no event presented (R170, R171); the host's buffer stays (R172). -/
def resetEdge (s : State) : Host.Outcome State Fault Refusal :=
  .next { s with regs := resetRegs s.cfg.idxW s.cfg.addrW, wr := idlePort s.cfg.addrW }

/-- `raise InvalidInput(off, cause)`: taking the block's one exception (R157). -/
def raiseInvalidInput (r : Regs iw aw) (off : BitVec iw) (cause : ErrCause) : Regs iw aw × Option (WriteEvent aw) :=
  ({ r with phase := .err, errOffset := off, errCause := cause }, none)

/-- The clean state of a new call, also the one way but reset out of an error (R102, R159); `proto_err` stays (R29). -/
def openCall (r : Regs iw aw) : Regs iw aw × Option (WriteEvent aw) :=
  ({ r with phase := .busy, dstate := .data, cnt := 0, g0 := 0, g1 := 0, g2 := 0, idx := 0, cursor := 0,
            errOffset := 0, errCause := .none }, none)

/-- A command outside the protocol: `proto_err <- 1` and nothing else (R29, R108, R109, R136). -/
def protocolError (r : Regs iw aw) : Regs iw aw × Option (WriteEvent aw) := ({ r with protoErr := true }, none)

/-- No effect and no event (R101, R110). -/
def noEffect (r : Regs iw aw) : Regs iw aw × Option (WriteEvent aw) := (r, none)

/-- `idx <- idx + 1`, modulo 2^`IDX_W` (R113). -/
def consumeByte (r : Regs iw aw) : Regs iw aw := { r with idx := r.idx + 1 }

/-- The case on `phase` that `BYTE` and `FINISH` share (R103, R130): `act` in an open call, no effect after an error (R110), a
protocol error where no call is open (R109, R136). -/
def inOpenCall (s : State)
    (act : Regs s.cfg.idxW s.cfg.addrW → Regs s.cfg.idxW s.cfg.addrW × Option (WriteEvent s.cfg.addrW)) :
    Host.Outcome State Fault Refusal :=
  match s.regs.phase with
  | .busy => commit s (act s.regs)
  | .err => commit s (noEffect s.regs)
  | .idle => commit s (protocolError s.regs)
  | .done => commit s (protocolError s.regs)

end Sys2Proof.Machine
end

