-- ==== Sys2Proof/Machine/Byte.lean ====
section
/-! DEFINITION. `BYTE` and its four forms (R103 to R107, R109, R110). -/

namespace Sys2Proof.Machine

variable {iw aw : Nat}

/-- `BYTE.SKIP` in an open call (R104). -/
def skipByte (r : Regs iw aw) : Regs iw aw × Option (WriteEvent aw) := (consumeByte r, none)

/-- `BYTE.PAD` in an open call (R105): one step forward, a third pad marker is an error. -/
def padByte (r : Regs iw aw) : Regs iw aw × Option (WriteEvent aw) :=
  match r.dstate with
  | .data => ({ consumeByte r with dstate := .pad1 }, none)
  | .pad1 => ({ consumeByte r with dstate := .pad2 }, none)
  | .pad2 => raiseInvalidInput r r.idx .thirdPad

/-- `BYTE.VALUE` in an open call (R106): append in `Data`, an error after a pad marker. -/
def valueByte (v : Sextet) (r : Regs iw aw) : Regs iw aw × Option (WriteEvent aw) :=
  match r.dstate with
  | .data => groupAppend (consumeByte r) v
  | .pad1 => raiseInvalidInput r r.idx .valueAfterPad
  | .pad2 => raiseInvalidInput r r.idx .valueAfterPad

/-- `BYTE.INVALID` in an open call (R107): an error in every `dstate`. -/
def invalidByte (r : Regs iw aw) : Regs iw aw × Option (WriteEvent aw) := raiseInvalidInput r r.idx .invalidByte

/-- The case on the class (R103). -/
def classifiedByte (c : Classification) (r : Regs iw aw) : Regs iw aw × Option (WriteEvent aw) :=
  match c with
  | .skip => skipByte r
  | .pad => padByte r
  | .value v => valueByte v r
  | .invalid => invalidByte r

/-- `BYTE b` (R103): the common part, whole. -/
def execByte (b : Byte) (s : State) : Host.Outcome State Fault Refusal :=
  inOpenCall s (classifiedByte (classify s.cfg.lut b))

/-- `BYTE.VALUE` (R106), `v = LUT[b][5:0]`. -/
def execByteValue (b : Byte) (s : State) : Host.Outcome State Fault Refusal :=
  inOpenCall s (valueByte (entryVal (lutRead s.cfg.lut b)))

/-- `BYTE.SKIP` (R104). -/
def execByteSkip (s : State) : Host.Outcome State Fault Refusal := inOpenCall s skipByte

/-- `BYTE.PAD` (R105). -/
def execBytePad (s : State) : Host.Outcome State Fault Refusal := inOpenCall s padByte

/-- `BYTE.INVALID` (R107). -/
def execByteInvalid (s : State) : Host.Outcome State Fault Refusal := inOpenCall s invalidByte

end Sys2Proof.Machine
end

