-- ==== Sys2Proof/Machine/Control.lean ====
section
/-! DEFINITION. `NOP`, `START` and `RSVD`: the commands without an operand (R101, R102, R108). -/

namespace Sys2Proof.Machine

/-- `NOP` (R101): an idle cycle; only the write port goes idle. -/
def execNop (s : State) : Host.Outcome State Fault Refusal := commit s (noEffect s.regs)

/-- `START` (R102): begin a call, in every phase. -/
def execStart (s : State) : Host.Outcome State Fault Refusal := commit s (openCall s.regs)

/-- `RSVD` (R108): a protocol error, in every phase. -/
def execRsvd (s : State) : Host.Outcome State Fault Refusal := commit s (protocolError s.regs)

end Sys2Proof.Machine
end

