-- ==== Sys2Proof/Machine/Finalize.lean ====
section
/-! DEFINITION. `FINISH`: finalization of a call (R130 to R139). -/

namespace Sys2Proof.Machine

variable {iw aw : Nat}

/-- The error cells of the finalization table (R131, R154). -/
def malformedTail (n : BitVec 2) (d : DState) : Bool :=
  decide (n = 1#2) || (decide (n = 3#2) && decide (d = .pad2))

/-- The tail of a well-formed call (R130, R133): nothing for an empty group, else `n - 1` bytes of the zero-filled group. -/
def emitTail (r : Regs iw aw) : Regs iw aw × Option (WriteEvent aw) :=
  if r.cnt = 2#2 then emitTruncated r r.g0 r.g1 0 0 1
  else if r.cnt = 3#2 then emitTruncated r r.g0 r.g1 r.g2 0 2
  else noEffect r

/-- `FINISH` in an open call (R130). -/
def finalize (r : Regs iw aw) : Regs iw aw × Option (WriteEvent aw) :=
  if malformedTail r.cnt r.dstate then raiseInvalidInput r 0 .malformedTail
  else ({ (emitTail r).1 with phase := .done }, (emitTail r).2)

/-- `FINISH` (R130, R136, R110). -/
def execFinish (s : State) : Host.Outcome State Fault Refusal := inOpenCall s finalize

end Sys2Proof.Machine
end

