-- ==== Sys2Proof/Machine/Dispatch.lean ====
section
/-! DEFINITION. One arm per row of the opcode table. -/

namespace Sys2Proof.Machine

def exec (i : Instr) (s : State) : Host.Outcome State Fault Refusal :=
  match i with
  | .nop _ => Sys2Proof.Machine.execNop s
  | .start _ => Sys2Proof.Machine.execStart s
  | .byte b => Sys2Proof.Machine.execByte b s
  | .byteValue b => Sys2Proof.Machine.execByteValue b s
  | .byteSkip _ => Sys2Proof.Machine.execByteSkip s
  | .bytePad _ => Sys2Proof.Machine.execBytePad s
  | .byteInvalid _ => Sys2Proof.Machine.execByteInvalid s
  | .finish _ => Sys2Proof.Machine.execFinish s
  | .rsvd _ => Sys2Proof.Machine.execRsvd s

end Sys2Proof.Machine
end

