-- ==== Sys2Proof/Machine/Flags.lean ====
section
/-! DEFINITION. The outputs (R34 to R37), the flags decoded from `phase` (R43), and the result of a call as the host reads it
(R36, R178). -/

namespace Sys2Proof.Machine

/-- `busy`: a call is open (R36). -/
def busyFlag (p : Phase) : Bool := decide (p = .busy)

/-- `done`: the last call ended in success (R36). -/
def doneFlag (p : Phase) : Bool := decide (p = .done)

/-- `err`: the last call ended in an error (R36). -/
def errFlag (p : Phase) : Bool := decide (p = .err)

/-- The output ports of R34. -/
structure PortOut (iw aw : Nat) where
  cmdReady : Bool
  wrValid : Bool
  wrAddr : BitVec aw
  wrData : BitVec 24
  wrLen : BitVec 2
  busy : Bool
  done : Bool
  err : Bool
  errOffset : BitVec iw
  errCause : BitVec 3
  outLen : BitVec aw
  protoErr : Bool
  dbgDstate : BitVec 2
  dbgCnt : BitVec 2
deriving DecidableEq, Repr

/-- Every output is driven from the registers; `cmd_ready` is constant 1 (R34, R35, R37). -/
def State.outputs (s : State) : PortOut s.cfg.idxW s.cfg.addrW :=
  { cmdReady := true
    wrValid := s.wr.valid
    wrAddr := s.wr.addr
    wrData := s.wr.data
    wrLen := s.wr.len
    busy := busyFlag s.regs.phase
    done := doneFlag s.regs.phase
    err := errFlag s.regs.phase
    errOffset := s.regs.errOffset
    errCause := causeCode s.regs.errCause
    outLen := s.regs.cursor
    protoErr := s.regs.protoErr
    dbgDstate := dstateCode s.regs.dstate
    dbgCnt := s.regs.cnt }

/-- A finished call's result: the number of bytes written, or `InvalidInput` with its offset (R36). -/
inductive CallResult where
  | ok (len : Nat)
  | invalidInput (atOffset : Nat)
deriving DecidableEq, Repr

/-- What the outputs say of the last call; none while none has ended (R178). -/
def State.callResult (s : State) : Option CallResult :=
  match s.regs.phase with
  | .done => some (.ok s.regs.cursor.toNat)
  | .err => some (.invalidInput s.regs.errOffset.toNat)
  | .idle => none
  | .busy => none

end Sys2Proof.Machine
end

