-- ==== Sys2Proof/Machine/Step.lean ====
section
/-! DEFINITION. One clock cycle (R100): the host applies the presented event (R30), then the edge resets the block or performs
the command on the port (R84, R171). -/

namespace Sys2Proof.Machine

def step (s : State) : Host.Outcome State Fault Refusal :=
  if overruns s.cfg.outLen s.wr then .fault .outputOverrun
  else if s.portIn.rst then resetEdge s.atEdge
  else exec (decode s.cfg.lut (busyFlag s.regs.phase) s.portIn.cmd) s.atEdge

/-- The host presents the word `w` in the very next cycle, before whatever it was going to drive (log entry 2). -/
def State.withFetchWord (s : State) (nbits w : Nat) : State :=
  { s with inputs := { rst := false, cmd := BitVec.ofNat 11 (w % 2 ^ nbits) } :: s.inputs }

end Sys2Proof.Machine
end

