-- ==== Sys2Proof/Machine/Assembler.lean ====
section
/-! DEFINITION. The assembler of command sequences: lines, pseudo-commands and their expansions (R85, R86). It is the host's
tool and no part of the block. Text is a list of characters, a character standing for its ASCII code (R10). What R85 leaves open of
the line format is DESIGN CHOICE, log entry 14. -/

namespace Sys2Proof.Machine

/-- A line of R85, or a pseudo-command of R86. -/
inductive AsmLine where
  | nop
  | start
  | byte (b : Byte)
  | finish
  | rsvd (b : Byte)
  | bytes (text : List Byte)
  | decode (text : List Byte)
  | idle (k : Nat)
deriving DecidableEq, Repr

/-- The words of one `BYTE` per byte, in order. -/
def byteWords (text : List Byte) : List CmdWord := text.map fun b => encode (.byte b)

/-- The command words of a line (R85, R86). -/
def expandLine : AsmLine → List CmdWord
  | .nop => [encode (.nop 0)]
  | .start => [encode (.start 0)]
  | .byte b => [encode (.byte b)]
  | .finish => [encode (.finish 0)]
  | .rsvd b => [encode (.rsvd b)]
  | .bytes text => byteWords text
  | .decode text => encode (.start 0) :: (byteWords text ++ [encode (.finish 0)])
  | .idle k => List.replicate k (encode (.nop 0))

/-- The host drives these words, one a cycle, without reset. -/
def driveWords (ws : List CmdWord) : List PortIn := ws.map fun w => { rst := false, cmd := w }

/-- The byte of a character (R10): ASCII only. -/
def charByte (c : Char) : Option Byte := if c.toNat < 128 then some (BitVec.ofNat 8 c.toNat) else none

def hexDigit (c : Char) : Option Nat :=
  if '0' ≤ c ∧ c ≤ '9' then some (c.toNat - 48)
  else if 'a' ≤ c ∧ c ≤ 'f' then some (c.toNat - 87)
  else if 'A' ≤ c ∧ c ≤ 'F' then some (c.toNat - 55)
  else none

/-- `HH`. -/
def hexByte (h l : Char) : Option Byte := do
  let hi ← hexDigit h
  let lo ← hexDigit l
  return BitVec.ofNat 8 (16 * hi + lo)

def digitValue (c : Char) : Nat := c.toNat - 48

/-- A decimal number at the front of the text. -/
def takeDecimal (t : List Char) : Option (Nat × List Char) :=
  match t.takeWhile Char.isDigit with
  | [] => none
  | ds => some (ds.foldl (fun n c => 10 * n + digitValue c) 0, t.dropWhile Char.isDigit)

/-- The escapes `\n`, `\r`, `\t` and `\\` of both quotations, and the escaped closing quote `q`. -/
def escapeByte (q c : Char) : Option Byte :=
  if c = 'n' then some 0x0A
  else if c = 'r' then some 0x0D
  else if c = 't' then some 0x09
  else if c = '\\' then some 0x5C
  else if c = q then charByte q
  else none

/-- The operand `<b>` of R85: `0xHH`, a decimal 0..255, or a quoted character. R85 does not say whether the quote itself may stand
between quotes without its escape: it may (DESIGN CHOICE, log entry 14). -/
def takeOperand : List Char → Option (Byte × List Char)
  | '0' :: 'x' :: h :: l :: rest => (hexByte h l).map fun b => (b, rest)
  | '\'' :: '\\' :: c :: '\'' :: rest => (escapeByte '\'' c).map fun b => (b, rest)
  | '\'' :: c :: '\'' :: rest => if c = '\\' then none else (charByte c).map fun b => (b, rest)
  | t => do
    let (n, rest) ← takeDecimal t
    if n < 256 then some (BitVec.ofNat 8 n, rest) else none

/-- The rest of a quoted text, after its opening quote (R86). -/
def takeText : List Char → Option (List Byte × List Char)
  | [] => none
  | '"' :: rest => some ([], rest)
  | '\\' :: 'x' :: h :: l :: rest => do
    let b ← hexByte h l
    let (bs, rest) ← takeText rest
    return (b :: bs, rest)
  | '\\' :: c :: rest => do
    let b ← escapeByte '"' c
    let (bs, rest) ← takeText rest
    return (b :: bs, rest)
  | c :: rest => do
    let b ← charByte c
    let (bs, rest) ← takeText rest
    return (b :: bs, rest)

def skipBlanks (t : List Char) : List Char := t.dropWhile fun c => decide (c = ' ') || decide (c = '\t')

/-- Only blanks and a comment are left (R85: `;` to end of line). -/
def restBlank (t : List Char) : Bool :=
  match skipBlanks t with
  | [] => true
  | c :: _ => decide (c = ';')

/-- A line with an operand byte. R85 does not say whether a blank must precede the operand: none need (DESIGN CHOICE, log entry
14). -/
def lineWithByte (f : Byte → AsmLine) (t : List Char) : Option AsmLine := do
  let (b, rest) ← takeOperand (skipBlanks t)
  if restBlank rest then some (f b) else none

/-- A line with a quoted text; no blank need precede it (DESIGN CHOICE, log entry 14). -/
def lineWithText (f : List Byte → AsmLine) (t : List Char) : Option AsmLine :=
  match skipBlanks t with
  | '"' :: text => do
    let (bs, rest) ← takeText text
    if restBlank rest then some (f bs) else none
  | _ => none

/-- One non-empty line of source. R86 gives no form for the count of `IDLE`: a decimal numeral of any size, 0 included, and no
hexadecimal one (DESIGN CHOICE, log entry 14). -/
def parseCommand (t : List Char) : Option AsmLine :=
  let word := t.takeWhile Char.isAlpha
  let rest := t.dropWhile Char.isAlpha
  if word = ['N', 'O', 'P'] then if restBlank rest then some .nop else none
  else if word = ['S', 'T', 'A', 'R', 'T'] then if restBlank rest then some .start else none
  else if word = ['F', 'I', 'N', 'I', 'S', 'H'] then if restBlank rest then some .finish else none
  else if word = ['B', 'Y', 'T', 'E'] then lineWithByte .byte rest
  else if word = ['R', 'S', 'V', 'D'] then lineWithByte .rsvd rest
  else if word = ['B', 'Y', 'T', 'E', 'S'] then lineWithText .bytes rest
  else if word = ['D', 'E', 'C', 'O', 'D', 'E'] then lineWithText .decode rest
  else if word = ['I', 'D', 'L', 'E'] then do
    let (k, rest) ← takeDecimal (skipBlanks rest)
    if restBlank rest then some (.idle k) else none
  else none

/-- The words of one line; a blank line or a comment has none. -/
def assembleLine (t : List Char) : Option (List CmdWord) :=
  if restBlank t then some [] else (parseCommand (skipBlanks t)).map expandLine

/-- The words of a source text, given line by line. -/
def assemble (ls : List (List Char)) : Option (List CmdWord) := (ls.mapM assembleLine).map List.flatten

end Sys2Proof.Machine
end

