-- ==== Sys2Proof/Safety.lean ====
section
/-! DEFINITION. The terms claims use: the host's duties (R174), the invariant of the machine, the shape of an open call, and the
source's `decode` as software (R179), which the block is claimed to refine. Nothing here is called by the machine. -/

namespace Sys2Proof.Machine

/-- `estimateDecodedLength(n) = ceil(n/4) * 3` (R9). -/
def estimateDecodedLength (n : Nat) : Nat := (n + 3) / 4 * 3

/-- Duties 2, 4 and 5 of R174 for an input of `n` bytes. -/
structure Duties (c : Config) (n : Nat) : Prop where
  buffer : estimateDecodedLength n ≤ c.outLen
  index : n < 2 ^ c.idxW
  output : estimateDecodedLength n ≤ 2 ^ c.addrW

/-- `s` with other registers and another write port: its configuration, the host's buffer and the host's inputs are kept. -/
def State.after (s : State) (r : Regs s.cfg.idxW s.cfg.addrW) (w : WritePort s.cfg.addrW) : State :=
  { s with regs := r, wr := w }

/-- The state after an edge that leaves the registers `r` and the port `w`: the presented event has reached the buffer, and this
cycle's inputs are used up. -/
def State.afterEdge (s : State) (r : Regs s.cfg.idxW s.cfg.addrW) (w : WritePort s.cfg.addrW) : State :=
  { cfg := s.cfg, regs := r, wr := w, buf := s.bufferView, inputs := s.inputs.tail }

/-- The cycles of `DECODE x` (R86): `START`, one `BYTE` per input byte, `FINISH`. -/
def decodeCall (x : List Byte) : List PortIn := driveWords (expandLine (.decode x))

/-- What every step keeps, from every state (not only from those a run reaches). -/
structure State.Inv (s : State) : Prop where
  /-- The buffer is in canonical form, inside the output space (R50(c)). -/
  buf_wf : s.buf.wf = true
  buf_space : ∀ c ∈ s.buf, c.1 < 2 ^ s.cfg.addrW
  /-- An error cause is recorded in phase `ERR` and in no other (R28). -/
  cause_iff : s.regs.errCause ≠ .none ↔ s.regs.phase = .err
  /-- `err_offset` is 0 outside `ERR` (R27). -/
  offset_zero : s.regs.phase ≠ .err → s.regs.errOffset = 0
  /-- After a scan error `idx` still is the erroring byte's index, the recorded offset (R157). -/
  scan_offset : s.regs.phase = .err → s.regs.errCause ≠ .malformedTail → s.regs.errOffset = s.regs.idx
  /-- A malformed tail records offset 0 (R138), of a tail the table rejects (R154). -/
  tail_offset : s.regs.errCause = .malformedTail →
    s.regs.errOffset = 0 ∧ malformedTail s.regs.cnt s.regs.dstate = true
  /-- The frozen padding state shows why the scan failed (R152, R153). -/
  pad_cause : (s.regs.errCause = .valueAfterPad → s.regs.dstate ≠ .data) ∧
    (s.regs.errCause = .thirdPad → s.regs.dstate = .pad2)
  /-- A call that ended in success had a tail the table accepts (R131, R137). -/
  done_tail : s.regs.phase = .done → malformedTail s.regs.cnt s.regs.dstate = false
  /-- Before the first call the registers are as reset left them, but for `proto_err` (R21, R29, R38). -/
  idle_clean : s.regs.phase = .idle →
    s.regs.dstate = .data ∧ s.regs.cnt = 0 ∧ s.regs.g0 = 0 ∧ s.regs.g1 = 0 ∧ s.regs.g2 = 0 ∧ s.regs.idx = 0 ∧
      s.regs.cursor = 0
  /-- The write port is all 0 without an event (R30); with one, it writes 1 to 3 bytes and drives unused lanes 0 (R55). -/
  port_idle : s.wr.valid = false → s.wr = idlePort s.cfg.addrW
  port_len : s.wr.valid = true → s.wr.len ≠ 0
  port_lane1 : s.wr.len = 1 → s.wr.data.extractLsb' 8 8 = 0#8
  port_lane2 : s.wr.len ≠ 3 → s.wr.data.extractLsb' 0 8 = 0#8

/-- The shape of an open call whose counters have not wrapped: the cursor stands at a full group (R56), and each group written and
each slot filled has used up its input bytes (R62). -/
def State.callShape (s : State) : Prop :=
  s.regs.phase = .busy →
    s.regs.cursor.toNat % 3 = 0 ∧ 4 * (s.regs.cursor.toNat / 3) + s.regs.cnt.toNat ≤ s.regs.idx.toNat

/-- The class of the byte an instruction presents; none for the commands that present none (R73, R81). -/
def byteClass (lut : Lut) : Instr → Option Classification
  | .byte b => some (classify lut b)
  | .byteValue b => some (.value (entryVal (lutRead lut b)))
  | .byteSkip _ => some .skip
  | .bytePad _ => some .pad
  | .byteInvalid _ => some .invalid
  | .nop _ => none
  | .start _ => none
  | .finish _ => none
  | .rsvd _ => none

/-- The instruction is `START`. -/
def isStart : Instr → Bool
  | .start _ => true
  | .nop _ => false
  | .byte _ => false
  | .byteValue _ => false
  | .byteSkip _ => false
  | .bytePad _ => false
  | .byteInvalid _ => false
  | .finish _ => false
  | .rsvd _ => false

/-- The instruction is `FINISH`. -/
def isFinish : Instr → Bool
  | .finish _ => true
  | .nop _ => false
  | .start _ => false
  | .byte _ => false
  | .byteValue _ => false
  | .byteSkip _ => false
  | .bytePad _ => false
  | .byteInvalid _ => false
  | .rsvd _ => false

/-- The instruction is `RSVD`. -/
def isRsvd : Instr → Bool
  | .rsvd _ => true
  | .nop _ => false
  | .start _ => false
  | .byte _ => false
  | .byteValue _ => false
  | .byteSkip _ => false
  | .bytePad _ => false
  | .byteInvalid _ => false
  | .finish _ => false

/-- What the block does at the edge of the cycle that `s` shows, with `rst = 0` (R84). -/
def State.command (s : State) : Instr := decode s.cfg.lut (busyFlag s.regs.phase) s.portIn.cmd

/-- Two register files that agree but for slots at or above `cnt`, the stale ones (R23). -/
def agreeButStale {iw aw : Nat} (r q : Regs iw aw) : Prop :=
  q = { r with g0 := q.g0, g1 := q.g1, g2 := q.g2 } ∧
  (1 ≤ r.cnt.toNat → r.g0 = q.g0) ∧ (2 ≤ r.cnt.toNat → r.g1 = q.g1) ∧ (3 ≤ r.cnt.toNat → r.g2 = q.g2)

/-- Two register files that agree but for the input index and the offset recorded from it. -/
def agreeButIndex {iw aw : Nat} (r q : Regs iw aw) : Prop :=
  q = { r with idx := q.idx, errOffset := q.errOffset }

/-- The source's outcome of `decode`; the offset of a malformed tail is left open there (R138). -/
inductive SourceResult where
  | ok (bytes : List Byte)
  | scanError (atOffset : Nat)
  | malformedTail
deriving DecidableEq, Repr

/-- `a*2^18 + b*2^12 + c*2^6 + d`, missing values 0 (R53, R133). -/
def sourceWord (g : List Sextet) : Nat :=
  (g.getD 0 0).toNat * 2 ^ 18 + (g.getD 1 0).toNat * 2 ^ 12 + (g.getD 2 0).toNat * 2 ^ 6 + (g.getD 3 0).toNat

/-- The source's three bytes of a group, most significant first. -/
def sourcePack (g : List Sextet) : List Byte :=
  [BitVec.ofNat 8 (sourceWord g / 2 ^ 16), BitVec.ofNat 8 (sourceWord g / 2 ^ 8), BitVec.ofNat 8 (sourceWord g)]

/-- The source's finalization, as the table of R131 resolves it; `pads` is `padCount`. -/
def sourceFinalize (pads : Nat) (g : List Sextet) (out : List Byte) : SourceResult :=
  if g.length = 0 then .ok out
  else if g.length = 2 then .ok (out ++ (sourcePack g).take 1)
  else if g.length = 3 ∧ pads < 2 then .ok (out ++ (sourcePack g).take 2)
  else .malformedTail

/-- The source's scan, byte by byte (§4.2 steps 1 to 6): `i` the index, `pads` the pad markers seen, `g` the group, `out` the
output so far. -/
def sourceScan (lut : Lut) : List Byte → Nat → Nat → List Sextet → List Byte → SourceResult
  | [], _, pads, g, out => sourceFinalize pads g out
  | b :: x, i, pads, g, out =>
    match classify lut b with
    | .skip => sourceScan lut x (i + 1) pads g out
    | .pad => if pads < 2 then sourceScan lut x (i + 1) (pads + 1) g out else .scanError i
    | .value v =>
      if pads = 0 then
        if g.length = 3 then sourceScan lut x (i + 1) pads [] (out ++ sourcePack (g ++ [v]))
        else sourceScan lut x (i + 1) pads (g ++ [v]) out
      else .scanError i
    | .invalid => .scanError i

/-- The source's `decode(alphabet, input)` (R1, R179). -/
def sourceDecode (lut : Lut) (x : List Byte) : SourceResult := sourceScan lut x 0 0 [] []

end Sys2Proof.Machine
end

