-- ==== Sys2Proof/Certificates/Slice0/Obligations.lean ====
section
/-! DEFINITION. The statements for the provers. In each, `s.after r w` is `s` with registers `r` and write port `w`, everything
else kept (configuration, the host's buffer, the host's inputs); `idlePort` is the port without an event, all zero.
Wherever a statement speaks of `step` or `core.run`, what it says of the host is the model's choice and no rule's: the list of inputs
(log entry 2), the presented event reaching the buffer in the same cycle, also under `rst = 1` (log entry 13), nothing else of the
host's writing to it (log entry 6), and the stop on an overrun, which the premise `overruns … = false` leaves out (log entry 7). -/

open Sys2Proof Sys2Proof.Machine

/-! ## Reset, encoding, classification -/

/-- R38, R170: the reset state, register by register. -/
def Obligations.ResetStateValues : Prop :=
  State.reset.regs.phase = .idle ∧ State.reset.regs.dstate = .data ∧ State.reset.regs.cnt = 0 ∧
  State.reset.regs.g0 = 0 ∧ State.reset.regs.g1 = 0 ∧ State.reset.regs.g2 = 0 ∧
  State.reset.regs.idx = 0 ∧ State.reset.regs.cursor = 0 ∧ State.reset.regs.errOffset = 0 ∧
  State.reset.regs.errCause = .none ∧ State.reset.regs.protoErr = false ∧
  State.reset.wr.valid = false ∧ State.reset.wr.addr = 0 ∧ State.reset.wr.data = 0 ∧ State.reset.wr.len = 0

/-- The reset values of R170 and the priority of R171, whatever command is on the port. Two clauses are the model's choice: that the
host applies the event presented while `rst = 1` (log entry 13), and that a cycle that overruns the buffer stops before its reset,
which the premise leaves out (log entry 7). -/
def Obligations.ResetEdgeClearsEverything : Prop :=
  ∀ (s : State) (c : CmdWord) (rest : List PortIn),
    overruns s.cfg.outLen s.wr = false → s.inputs = { rst := true, cmd := c } :: rest →
    step s = .next
      { cfg := s.cfg
        regs := { phase := .idle, dstate := .data, cnt := 0, g0 := 0, g1 := 0, g2 := 0, idx := 0, cursor := 0,
                  errOffset := 0, errCause := .none, protoErr := false }
        wr := { valid := false, addr := 0, data := 0, len := 0 }
        buf := s.bufferView
        inputs := rest }

/-- R71: words written out from the encoding decode to their commands. -/
def Obligations.SampleWordsDecode : Prop :=
  decodeCmd 0b00000000000 = .nop 0 ∧ decodeCmd 0b01111111111 = .nop 0x3FF ∧
  decodeCmd 0b10000000000 = .start 0 ∧ decodeCmd 0b10101100001 = .byte 0x61 ∧
  decodeCmd 0b11000000000 = .finish 0 ∧ decodeCmd 0b11101010101 = .rsvd 0x55

/-- R70 to R73: for every table, in and out of an open call, decoding and encoding are inverse both ways: every well-formed
instruction comes back from its word, and every word comes back from a well-formed instruction. -/
def Obligations.DecodeEncodeInverse : Prop :=
  ∀ (lut : Lut) (busy : Bool),
    (∀ i : Instr, i.wf lut busy = true → decode lut busy (encode i) = i) ∧
    (∀ w : CmdWord, encode (decode lut busy w) = w ∧ (decode lut busy w).wf lut busy = true)

/-- R72: `START`, `FINISH`, `RSVD` and `NOP` ignore their operand bits. -/
def Obligations.IgnoredBitsHaveNoEffect : Prop :=
  ∀ (s : State) (x : Byte) (y : BitVec 10),
    exec (.start x) s = exec (.start 0) s ∧ exec (.finish x) s = exec (.finish 0) s ∧
    exec (.rsvd x) s = exec (.rsvd 0) s ∧ exec (.nop y) s = exec (.nop 0) s

/-- R75, R90: the class of an entry, its value field ignored outside class `Value`, and the form of `BYTE` it selects. -/
def Obligations.ClassifyReadsEntry : Prop :=
  ∀ (lut : Lut) (b : Byte) (v : Sextet),
    (lutRead lut b = 0#2 ++ v → classify lut b = .value v ∧ selectForm lut (.byte b) = .byteValue b) ∧
    (lutRead lut b = 1#2 ++ v → classify lut b = .skip ∧ selectForm lut (.byte b) = .byteSkip b) ∧
    (lutRead lut b = 2#2 ++ v → classify lut b = .pad ∧ selectForm lut (.byte b) = .bytePad b) ∧
    (lutRead lut b = 3#2 ++ v → classify lut b = .invalid ∧ selectForm lut (.byte b) = .byteInvalid b)

/-- R94: the Standard table by its ranges; it is the default. -/
def Obligations.StandardTableByRange : Prop :=
  State.reset.cfg.lut = standardLut ∧
  ∀ b : Byte, lutRead standardLut b =
    if 0x41 ≤ b ∧ b ≤ 0x5A then b - 0x41
    else if 0x61 ≤ b ∧ b ≤ 0x7A then b - 0x47
    else if 0x30 ≤ b ∧ b ≤ 0x39 then b + 0x04
    else if b = 0x2B then 0x3E
    else if b = 0x2F then 0x3F
    else if b = 0x3D then 0x80
    else if b = 0x09 ∨ b = 0x0A ∨ b = 0x0D then 0x40
    else 0xC0

/-- R95: the classes of the Standard table, counted; `WF_LUT` says that each value comes from exactly one byte. -/
def Obligations.StandardTableClassCounts : Prop :=
  (tableValues standardLut).length = 64 ∧
  (standardLut.toList.filter fun e => classifyEntry e = .skip).length = 3 ∧
  (standardLut.toList.filter fun e => classifyEntry e = .pad).length = 1 ∧
  (standardLut.toList.filter fun e => classifyEntry e = .invalid).length = 188 ∧
  (∀ b : Byte, classify standardLut b = .skip ↔ b = 0x09 ∨ b = 0x0A ∨ b = 0x0D) ∧
  (∀ b : Byte, classify standardLut b = .pad ↔ b = 0x3D) ∧
  wfLut standardLut = true

/-- R32: what the check `WF_LUT` says of a table: each value has exactly one byte of class `Value`. -/
def Obligations.WfLutMeansInjective : Prop :=
  ∀ lut : Lut, wfLut lut = true ↔ ∀ v : Sextet, ∃! b : Byte, classify lut b = .value v

/-- R9: `estimateDecodedLength`, the least multiple of 3 with three bytes for every four input bytes begun. -/
def Obligations.EstimateIsCeiling : Prop :=
  ∀ n : Nat, estimateDecodedLength n % 3 = 0 ∧ 3 * n ≤ 4 * estimateDecodedLength n ∧
    4 * estimateDecodedLength n < 3 * n + 12

/-- R85, R86: the words of a source text, by line. -/
def Obligations.AssemblerExpandsLines : Prop :=
  (∀ x : List Byte, expandLine (.decode x) = [0x400#11] ++ x.map (fun b => 5#3 ++ b) ++ [0x600#11]) ∧
  (∀ x : List Byte, expandLine (.bytes x) = x.map (fun b => 5#3 ++ b)) ∧
  (∀ k : Nat, expandLine (.idle k) = List.replicate k 0x000#11) ∧
  expandLine .nop = [0x000#11] ∧ expandLine .start = [0x400#11] ∧ expandLine .finish = [0x600#11] ∧
  (∀ b : Byte, expandLine (.byte b) = [5#3 ++ b] ∧ expandLine (.rsvd b) = [7#3 ++ b])

/-! ## One command at a time -/

/-- R101. -/
def Obligations.NopHasNoEffect : Prop :=
  ∀ (s : State) (x : BitVec 10), exec (.nop x) s = .next (s.after s.regs (idlePort s.cfg.addrW))

/-- R102. -/
def Obligations.StartOpensCleanCall : Prop :=
  ∀ (s : State) (x : Byte), ∃ t,
    t = s.after
      { phase := .busy, dstate := .data, cnt := 0, g0 := 0, g1 := 0, g2 := 0, idx := 0, cursor := 0,
        errOffset := 0, errCause := .none, protoErr := s.regs.protoErr } (idlePort s.cfg.addrW) ∧
    exec (.start x) s = .next t ∧ t.outputs.busy = true ∧ t.outputs.done = false ∧ t.outputs.err = false

/-- R103: the common part of `BYTE b`: in an open call the form of its class, else as R109 and R110 say. -/
def Obligations.ByteIsTheFormOfItsClass : Prop :=
  ∀ (s : State) (b : Byte),
    (s.regs.phase = .busy → exec (.byte b) s = exec (formOf b (classify s.cfg.lut b)) s) ∧
    (s.regs.phase = .err → exec (.byte b) s = .next (s.after s.regs (idlePort s.cfg.addrW))) ∧
    (s.regs.phase = .idle ∨ s.regs.phase = .done →
      exec (.byte b) s = .next (s.after { s.regs with protoErr := true } (idlePort s.cfg.addrW)))

/-- R104: `BYTE.SKIP`, as a form and as a `BYTE` of its class. -/
def Obligations.SkipByteAdvancesIndexOnly : Prop :=
  ∀ (s : State) (b : Byte) (i : Instr), s.regs.phase = .busy →
    (i = .byteSkip b ∨ i = .byte b ∧ classify s.cfg.lut b = .skip) →
    exec i s = .next (s.after { s.regs with idx := s.regs.idx + 1 } (idlePort s.cfg.addrW))

/-- R105: `BYTE.PAD` moves one state forward; the third pad marker is an error at its own index. -/
def Obligations.PadByteMovesForward : Prop :=
  ∀ (s : State) (b : Byte) (i : Instr), s.regs.phase = .busy →
    (i = .bytePad b ∨ i = .byte b ∧ classify s.cfg.lut b = .pad) →
    (s.regs.dstate = .data → exec i s = .next
      (s.after { s.regs with dstate := .pad1, idx := s.regs.idx + 1 } (idlePort s.cfg.addrW))) ∧
    (s.regs.dstate = .pad1 → exec i s = .next
      (s.after { s.regs with dstate := .pad2, idx := s.regs.idx + 1 } (idlePort s.cfg.addrW))) ∧
    (s.regs.dstate = .pad2 → exec i s = .next
      (s.after { s.regs with phase := .err, errOffset := s.regs.idx, errCause := .thirdPad }
        (idlePort s.cfg.addrW)))

/-- R106, R140, R144, R152: `BYTE.VALUE` fills the next slot, or completes the group and presents its 24-bit word at the cursor;
after a pad marker it is an error at its own index. -/
def Obligations.ValueByteAppendsOrRaises : Prop :=
  ∀ (s : State) (b : Byte) (v : Sextet) (i : Instr), s.regs.phase = .busy →
    classify s.cfg.lut b = .value v → (i = .byteValue b ∨ i = .byte b) →
    (s.regs.dstate = .data → s.regs.cnt = 0 → exec i s = .next
      (s.after { s.regs with g0 := v, cnt := 1, idx := s.regs.idx + 1 } (idlePort s.cfg.addrW))) ∧
    (s.regs.dstate = .data → s.regs.cnt = 1 → exec i s = .next
      (s.after { s.regs with g1 := v, cnt := 2, idx := s.regs.idx + 1 } (idlePort s.cfg.addrW))) ∧
    (s.regs.dstate = .data → s.regs.cnt = 2 → exec i s = .next
      (s.after { s.regs with g2 := v, cnt := 3, idx := s.regs.idx + 1 } (idlePort s.cfg.addrW))) ∧
    (s.regs.dstate = .data → s.regs.cnt = 3 → exec i s = .next
      (s.after { s.regs with cnt := 0, cursor := s.regs.cursor + 3, idx := s.regs.idx + 1 }
        { valid := true, addr := s.regs.cursor, len := 3,
          data := s.regs.g0 ++ s.regs.g1 ++ s.regs.g2 ++ v })) ∧
    (s.regs.dstate ≠ .data → exec i s = .next (s.after
      { s.regs with phase := .err, errOffset := s.regs.idx, errCause := .valueAfterPad }
      (idlePort s.cfg.addrW)))

/-- R107, R151: an invalid byte is an error at its own index, in every `dstate`. -/
def Obligations.InvalidByteRaises : Prop :=
  ∀ (s : State) (b : Byte) (i : Instr), s.regs.phase = .busy →
    (i = .byteInvalid b ∨ i = .byte b ∧ classify s.cfg.lut b = .invalid) →
    exec i s = .next (s.after
      { s.regs with phase := .err, errOffset := s.regs.idx, errCause := .invalidByte } (idlePort s.cfg.addrW))

/-- R108: `RSVD` sets `proto_err` and nothing else, in every phase. -/
def Obligations.RsvdSetsProtoErrOnly : Prop :=
  ∀ (s : State) (x : Byte),
    exec (.rsvd x) s = .next (s.after { s.regs with protoErr := true } (idlePort s.cfg.addrW))

/-- R109: `BYTE` where no call is open, in every form. -/
def Obligations.ByteOutsideCallIsProtocolError : Prop :=
  ∀ (s : State) (b : Byte) (i : Instr), (s.regs.phase = .idle ∨ s.regs.phase = .done) →
    i ∈ [Instr.byte b, .byteValue b, .byteSkip b, .bytePad b, .byteInvalid b] →
    exec i s = .next (s.after { s.regs with protoErr := true } (idlePort s.cfg.addrW))

/-- R110: `BYTE`, in every form, and `FINISH` after an error. -/
def Obligations.ByteAndFinishIgnoredInErr : Prop :=
  ∀ (s : State) (b : Byte) (i : Instr), s.regs.phase = .err →
    i ∈ [Instr.byte b, .byteValue b, .byteSkip b, .bytePad b, .byteInvalid b, .finish b] →
    exec i s = .next (s.after s.regs (idlePort s.cfg.addrW))

/-- R130, R131, R136, R138, R154: `FINISH`, cell by cell of the finalization table, and in the other phases. The bytes of the tail
are those of the values themselves: the zero fill of R133 cannot be seen. On success only `phase` and `cursor` change. -/
def Obligations.FinishFollowsTable : Prop :=
  ∀ (s : State) (x : Byte),
    (s.regs.phase = .busy → (s.regs.cnt = 1 ∨ s.regs.cnt = 3 ∧ s.regs.dstate = .pad2) →
      exec (.finish x) s = .next (s.after
        { s.regs with phase := .err, errOffset := 0, errCause := .malformedTail } (idlePort s.cfg.addrW))) ∧
    (s.regs.phase = .busy → s.regs.cnt = 0 → exec (.finish x) s = .next
      (s.after { s.regs with phase := .done } (idlePort s.cfg.addrW))) ∧
    (s.regs.phase = .busy → s.regs.cnt = 2 → exec (.finish x) s = .next
      (s.after { s.regs with phase := .done, cursor := s.regs.cursor + 1 }
        { valid := true, addr := s.regs.cursor, len := 1,
          data := s.regs.g0 ++ s.regs.g1.extractLsb' 4 2 ++ 0#16 })) ∧
    (s.regs.phase = .busy → s.regs.cnt = 3 → s.regs.dstate ≠ .pad2 → exec (.finish x) s = .next
      (s.after { s.regs with phase := .done, cursor := s.regs.cursor + 2 }
        { valid := true, addr := s.regs.cursor, len := 2,
          data := s.regs.g0 ++ s.regs.g1 ++ s.regs.g2.extractLsb' 2 4 ++ 0#8 })) ∧
    (s.regs.phase = .err → exec (.finish x) s = .next (s.after s.regs (idlePort s.cfg.addrW))) ∧
    (s.regs.phase = .idle ∨ s.regs.phase = .done →
      exec (.finish x) s = .next (s.after { s.regs with protoErr := true } (idlePort s.cfg.addrW)))

/-! ## The cycle: fetch, ports, the host's buffer -/

/-- R84, R100: a cycle without reset runs the decoded instruction, at the state in which the host has applied the presented event
and this cycle's inputs are used up. -/
def Obligations.StepRunsDecodedCommand : Prop :=
  ∀ (s : State) (c : CmdWord) (rest : List PortIn) (i : Instr),
    overruns s.cfg.outLen s.wr = false → s.inputs = { rst := false, cmd := c } :: rest →
    decode s.cfg.lut (busyFlag s.regs.phase) c = i →
    step s = exec i { cfg := s.cfg, regs := s.regs, wr := s.wr, buf := s.bufferView, inputs := rest }

/-- R70, R84: whatever well-formed instruction the host presents is the one that runs next. -/
def Obligations.PresentedInstructionRuns : Prop :=
  ∀ (s : State) (i : Instr), overruns s.cfg.outLen s.wr = false →
    i.wf s.cfg.lut (busyFlag s.regs.phase) = true →
    step (s.withFetchWord 16 (encode i).toNat) = exec i { s with buf := s.bufferView }

/-- R101, R34: a cycle in which the host presents nothing. The end of the input list standing for an idle host is the model's
choice (log entry 2). -/
def Obligations.IdleCycleKeepsRegisters : Prop :=
  ∀ s : State, overruns s.cfg.outLen s.wr = false → s.inputs = [] →
    step s = .next (s.afterEdge s.regs (idlePort s.cfg.addrW))

/-- Every cycle that does not fault applies the presented event to the buffer, drops the first pending input (none where the list is
empty), and leaves the configuration alone. The model's choices: the list of inputs (log entry 2), the event applied also while
`rst = 1` (log entry 13), the stop on an overrun, which the premise leaves out (log entry 7). -/
def Obligations.EveryCycleAppliesPresentedEvent : Prop :=
  ∀ s : State, overruns s.cfg.outLen s.wr = false → ∃ r w, step s = .next (s.afterEdge r w)

/-- R52, R33(b): no instruction reads or writes the buffer. Whatever the buffer holds, the instruction completes with the same
registers and the same event, and every offset reads as before. -/
def Obligations.ExecLeavesBufferAlone : Prop :=
  ∀ (i : Instr) (s : State), ∃ r w, ∀ m : Memory,
    exec i { s with buf := m } = .next { s with regs := r, wr := w, buf := m } ∧
    ∀ a, ({ s with regs := r, wr := w, buf := m } : State).buf.read a = m.read a

/-- R55: the lanes of a presented event, and no other offset, reach the buffer. -/
def Obligations.EventWritesItsLanes : Prop :=
  ∀ s : State, s.cfg.wf = true → s.wr.valid = true →
    (1 ≤ s.wr.len.toNat →
      s.bufferView.read s.wr.addr.toNat = some (s.wr.data.extractLsb' 16 8)) ∧
    (2 ≤ s.wr.len.toNat →
      s.bufferView.read (s.wr.addr + BitVec.ofNat s.cfg.addrW 1).toNat = some (s.wr.data.extractLsb' 8 8)) ∧
    (3 ≤ s.wr.len.toNat →
      s.bufferView.read (s.wr.addr + BitVec.ofNat s.cfg.addrW 2).toNat = some (s.wr.data.extractLsb' 0 8)) ∧
    (∀ a, (∀ k < s.wr.len.toNat, a ≠ (s.wr.addr + BitVec.ofNat s.cfg.addrW k).toNat) →
      s.bufferView.read a = s.buf.read a)

/-- R61: a cycle faults exactly when a presented lane lies at an offset `≥ OUT_LEN`; that the whole machine stops there is log entry
7. -/
def Obligations.OverrunFaultsExactly : Prop :=
  ∀ s : State, step s = .fault .outputOverrun ↔
    s.wr.valid = true ∧ ∃ k < s.wr.len.toNat, s.cfg.outLen ≤ (s.wr.addr + BitVec.ofNat s.cfg.addrW k).toNat

/-- R36, R37, R43, R35: the outputs decode the registers, with the codes of R77 and R79; at most one status flag is up; the result of a
call; the group and the index have no output. -/
def Obligations.OutputsDecodeRegisters : Prop :=
  ∀ s : State,
    (s.outputs.busy = true ↔ s.regs.phase = .busy) ∧ (s.outputs.done = true ↔ s.regs.phase = .done) ∧
    (s.outputs.err = true ↔ s.regs.phase = .err) ∧ s.outputs.outLen = s.regs.cursor ∧
    s.outputs.errOffset = s.regs.errOffset ∧ s.outputs.errCause = causeCode s.regs.errCause ∧
    s.outputs.protoErr = s.regs.protoErr ∧ s.outputs.dbgDstate = dstateCode s.regs.dstate ∧
    s.outputs.dbgCnt = s.regs.cnt ∧ s.outputs.cmdReady = true ∧
    s.outputs.wrValid = s.wr.valid ∧ s.outputs.wrAddr = s.wr.addr ∧ s.outputs.wrData = s.wr.data ∧
    s.outputs.wrLen = s.wr.len ∧
    dstateCode .data = 0 ∧ dstateCode .pad1 = 1 ∧ dstateCode .pad2 = 2 ∧
    causeCode .none = 0 ∧ causeCode .invalidByte = 1 ∧ causeCode .valueAfterPad = 2 ∧ causeCode .thirdPad = 3 ∧
    causeCode .malformedTail = 4 ∧
    s.outputs.busy.toNat + s.outputs.done.toNat + s.outputs.err.toNat ≤ 1 ∧
    (∀ k, s.callResult = some (.ok k) ↔ s.outputs.done = true ∧ k = s.outputs.outLen.toNat) ∧
    (∀ o, s.callResult = some (.invalidInput o) ↔ s.outputs.err = true ∧ o = s.outputs.errOffset.toNat) ∧
    (∀ g0 g1 g2 i, (s.after { s.regs with g0 := g0, g1 := g1, g2 := g2, idx := i } s.wr).outputs = s.outputs)

/-! ## The packer -/

/-- R53, R142: the packed word is `a*2^18 + b*2^12 + c*2^6 + d`, its bytes most significant first. -/
def Obligations.PackIsPositional : Prop :=
  ∀ a b c d : Sextet,
    (packWord a b c d).toNat = a.toNat * 2 ^ 18 + b.toNat * 2 ^ 12 + c.toNat * 2 ^ 6 + d.toNat ∧
    pack a b c d = [(packWord a b c d).extractLsb' 16 8, (packWord a b c d).extractLsb' 8 8,
      (packWord a b c d).extractLsb' 0 8]

/-- R143: the byte form of `pack`. -/
def Obligations.PackByteForm : Prop :=
  ∀ a b c d : Sextet,
    pack a b c d =
      [(a.setWidth 8 <<< 2) ||| (b.setWidth 8 >>> 4),
       ((b.setWidth 8 &&& 0xF#8) <<< 4) ||| (c.setWidth 8 >>> 2),
       ((c.setWidth 8 &&& 0x3#8) <<< 6) ||| d.setWidth 8] ∧
    pack a b c d =
      [a ++ b.extractLsb' 4 2, b.extractLsb' 0 4 ++ c.extractLsb' 2 4, c.extractLsb' 0 2 ++ d]

/-- R147: each byte depends only on the bits named, so a short tail never reads its fill. -/
def Obligations.PackLaneDependence : Prop :=
  ∀ a b c d a' b' c' d' : Sextet,
    (a = a' → b.extractLsb' 4 2 = b'.extractLsb' 4 2 → (pack a b c d)[0]? = (pack a' b' c' d')[0]?) ∧
    (b.extractLsb' 0 4 = b'.extractLsb' 0 4 → c.extractLsb' 2 4 = c'.extractLsb' 2 4 →
      (pack a b c d)[1]? = (pack a' b' c' d')[1]?) ∧
    (c.extractLsb' 0 2 = c'.extractLsb' 0 2 → d = d' → (pack a b c d)[2]? = (pack a' b' c' d')[2]?)

/-! ## Rules of the whole machine -/

/-- The invariant holds after reset. -/
def Obligations.ResetMeetsInvariant : Prop := State.reset.Inv

/-- Every cycle keeps the invariant, from every state that has it. -/
def Obligations.StepKeepsInvariant : Prop := ∀ s t : State, s.Inv → step s = .next t → t.Inv

/-- R111: `dstate` changes only through a pad marker in an open call, one state forward, or back to `Data` through `START` or
reset. -/
def Obligations.DstateMovesForward : Prop :=
  ∀ s t : State, step s = .next t → t.regs.dstate ≠ s.regs.dstate →
    (s.portIn.rst = true ∧ t.regs.dstate = .data) ∨
    (s.portIn.rst = false ∧ isStart s.command = true ∧ t.regs.dstate = .data) ∨
    (s.portIn.rst = false ∧ s.regs.phase = .busy ∧ byteClass s.cfg.lut s.command = some .pad ∧
      (s.regs.dstate = .data ∧ t.regs.dstate = .pad1 ∨ s.regs.dstate = .pad1 ∧ t.regs.dstate = .pad2))

/-- R21, R43, R159: what moves `phase`. `DONE` and `ERR` are left only through `START` or reset. -/
def Obligations.PhaseChangesOnlyByRule : Prop :=
  ∀ s t : State, step s = .next t → t.regs.phase ≠ s.regs.phase →
    (t.regs.phase = .idle ∧ s.portIn.rst = true) ∨
    (t.regs.phase = .busy ∧ s.portIn.rst = false ∧ isStart s.command = true) ∨
    (t.regs.phase = .done ∧ s.portIn.rst = false ∧ s.regs.phase = .busy ∧ isFinish s.command = true ∧
      malformedTail s.regs.cnt s.regs.dstate = false) ∨
    (t.regs.phase = .err ∧ s.portIn.rst = false ∧ s.regs.phase = .busy ∧
      (isFinish s.command = true ∧ malformedTail s.regs.cnt s.regs.dstate = true ∨
        ∃ c, byteClass s.cfg.lut s.command = some c))

/-- R150 to R154, R155: an open call ends in an error exactly under the four causes, each with its recorded offset. -/
def Obligations.ErrorCausesAreExact : Prop :=
  ∀ (i : Instr) (s : State), s.regs.phase = .busy → s.regs.errCause = .none →
    ∃ r w, exec i s = .next (s.after r w) ∧
      (r.errCause = .invalidByte ↔ byteClass s.cfg.lut i = some .invalid) ∧
      (r.errCause = .valueAfterPad ↔
        (∃ v, byteClass s.cfg.lut i = some (.value v)) ∧ s.regs.dstate ≠ .data) ∧
      (r.errCause = .thirdPad ↔ byteClass s.cfg.lut i = some .pad ∧ s.regs.dstate = .pad2) ∧
      (r.errCause = .malformedTail ↔
        isFinish i = true ∧ (s.regs.cnt = 1 ∨ s.regs.cnt = 3 ∧ s.regs.dstate = .pad2)) ∧
      (r.phase = .err ↔ r.errCause ≠ .none) ∧
      (r.errCause = .malformedTail → r.errOffset = 0) ∧
      (r.phase = .err → r.errCause ≠ .malformedTail → r.errOffset = s.regs.idx)

/-- R157: an instruction that raises `InvalidInput` writes `phase`, `err_offset` and `err_cause`, nothing else and no event; `idx`
keeps the erroring byte's index, which is the recorded offset unless the tail was at fault. -/
def Obligations.ErrorEntryFrame : Prop :=
  ∀ (i : Instr) (s : State), s.regs.phase ≠ .err → ∃ r w, exec i s = .next (s.after r w) ∧
    (r.phase = .err →
      r = { s.regs with phase := .err, errOffset := r.errOffset, errCause := r.errCause } ∧
      w = idlePort s.cfg.addrW ∧
      (r.errCause ≠ .malformedTail → r.errOffset = s.regs.idx))

/-- R160, R110: after an error every cycle but `START` and reset keeps the record, and all else but `proto_err`. -/
def Obligations.ErrorRecordIsFrozen : Prop :=
  ∀ s : State, overruns s.cfg.outLen s.wr = false → s.regs.phase = .err → s.portIn.rst = false →
    isStart s.command = false →
    step s = .next (s.afterEdge
      { s.regs with protoErr := s.regs.protoErr || isRsvd s.command } (idlePort s.cfg.addrW))

/-- R29: when `proto_err` is set and cleared; setting it changes nothing else. -/
def Obligations.ProtoErrIsSticky : Prop :=
  ∀ s t : State, step s = .next t →
    (t.regs.protoErr = true ↔ s.portIn.rst = false ∧
      (s.regs.protoErr = true ∨ isRsvd s.command = true ∨
        (s.regs.phase = .idle ∨ s.regs.phase = .done) ∧
          (isFinish s.command = true ∨ (byteClass s.cfg.lut s.command).isSome = true))) ∧
    (t.regs.protoErr ≠ s.regs.protoErr → s.portIn.rst = false →
      t = s.afterEdge { s.regs with protoErr := true } (idlePort s.cfg.addrW))

/-- R113, R25: `idx` advances by 1 exactly for the bytes an open call accepts. -/
def Obligations.IndexCountsAcceptedBytes : Prop :=
  ∀ (i : Instr) (s : State), ∃ r w, exec i s = .next (s.after r w) ∧
    (isStart i = true → r.idx = 0) ∧
    (s.regs.phase = .busy → (byteClass s.cfg.lut i).isSome = true → r.phase = .busy →
      r.idx = s.regs.idx + 1) ∧
    (isStart i = false →
      (s.regs.phase ≠ .busy ∨ byteClass s.cfg.lut i = none ∨ r.phase ≠ .busy) → r.idx = s.regs.idx)

/-- R26, R59, R148: the cursor starts a call at 0 and advances by the bytes written, each event at the cursor: 3 bytes from a
`BYTE`, 1 or 2 from `FINISH`, none otherwise. It does not decrease while it does not wrap. So the events of a call are
contiguous. -/
def Obligations.CursorFollowsEvents : Prop :=
  ∀ (i : Instr) (s : State), ∃ r w, exec i s = .next (s.after r w) ∧
    (isStart i = true → r.cursor = 0 ∧ w.valid = false) ∧
    (isStart i = false → r.cursor = s.regs.cursor + BitVec.ofNat s.cfg.addrW w.len.toNat) ∧
    (isStart i = false → s.regs.cursor.toNat + w.len.toNat < 2 ^ s.cfg.addrW →
      r.cursor.toNat = s.regs.cursor.toNat + w.len.toNat) ∧
    (w.valid = true → w.addr = s.regs.cursor ∧ s.regs.phase = .busy ∧
      (w.len = 3 ∧ (∃ v, byteClass s.cfg.lut i = some (.value v)) ∨ (w.len = 1 ∨ w.len = 2) ∧ isFinish i = true)) ∧
    (w.valid = false → w.len = 0)

/-- R132: a successful `FINISH` writes `max(n - 1, 0)` bytes, whatever `dstate` is. -/
def Obligations.FinishByteCount : Prop :=
  ∀ (s : State) (x : Byte), s.regs.phase = .busy → ∃ r w, exec (.finish x) s = .next (s.after r w) ∧
    (r.phase = .done → w.len.toNat = s.regs.cnt.toNat - 1 ∧ (w.valid = true ↔ 2 ≤ s.regs.cnt.toNat))

/-- R114: a command other than `START` makes at most one of a state transition, a group append (with its emission) and an error;
after an error it makes none, and writes nothing. -/
def Obligations.StepDoesOneThing : Prop :=
  ∀ (i : Instr) (s : State), isStart i = false → ∃ r w, exec i s = .next (s.after r w) ∧
    ¬ (r.dstate ≠ s.regs.dstate ∧ (r.cnt ≠ s.regs.cnt ∨ w.valid = true)) ∧
    (s.regs.phase ≠ .err →
      ¬ (r.phase = .err ∧ (r.dstate ≠ s.regs.dstate ∨ r.cnt ≠ s.regs.cnt ∨ w.valid = true))) ∧
    (s.regs.phase = .err →
      r.phase = .err ∧ r.dstate = s.regs.dstate ∧ r.cnt = s.regs.cnt ∧ w = idlePort s.cfg.addrW)

/-- R134: `FINISH` does not look at the low bits of the last value. -/
def Obligations.TrailingBitsUnchecked : Prop :=
  ∀ (s : State) (x : Byte) (g : Sextet), s.regs.phase = .busy →
    (s.regs.cnt = 2 → g.extractLsb' 4 2 = s.regs.g1.extractLsb' 4 2 →
      ∃ r w, exec (.finish x) s = .next (s.after r w) ∧ r.phase = .done ∧
        exec (.finish x) (s.after { s.regs with g1 := g } s.wr) = .next (s.after { r with g1 := g } w)) ∧
    (s.regs.cnt = 3 → s.regs.dstate ≠ .pad2 → g.extractLsb' 2 4 = s.regs.g2.extractLsb' 2 4 →
      ∃ r w, exec (.finish x) s = .next (s.after r w) ∧ r.phase = .done ∧
        exec (.finish x) (s.after { s.regs with g2 := g } s.wr) = .next (s.after { r with g2 := g } w))

/-- R23, R133: stale slots are never read. Register files that differ only there give the same event, and differ only there after. -/
def Obligations.StaleSlotsAreNeverRead : Prop :=
  ∀ (i : Instr) (s : State) (q : Regs s.cfg.idxW s.cfg.addrW), agreeButStale s.regs q →
    ∃ r r' w, exec i s = .next (s.after r w) ∧ exec i (s.after q s.wr) = .next (s.after r' w) ∧
      agreeButStale r r'

/-- R104, R155: the index decides nothing but the recorded offset, so skip bytes change no output. -/
def Obligations.IndexDecidesNothingElse : Prop :=
  ∀ (i : Instr) (s : State) (q : Regs s.cfg.idxW s.cfg.addrW), agreeButIndex s.regs q →
    ∃ r r' w, exec i s = .next (s.after r w) ∧ exec i (s.after q s.wr) = .next (s.after r' w) ∧
      agreeButIndex r r'

/-- R56, R62: an open call keeps its shape while its counters do not wrap, and every event starts at a multiple of 3. -/
def Obligations.CallKeepsItsShape : Prop :=
  ∀ (i : Instr) (s : State), s.callShape → s.regs.idx.toNat + 1 < 2 ^ s.cfg.idxW →
    s.regs.cursor.toNat + 3 < 2 ^ s.cfg.addrW →
    ∃ r w, exec i s = .next (s.after r w) ∧ (s.after r w).callShape ∧ (w.valid = true → w.addr.toNat % 3 = 0)

/-! ## Whole calls -/

/-- R62, R59: from any state and for any table, under the host's duties, no cycle of `DECODE x` faults, and after each of them the
call has written at most `estimateDecodedLength(n)` bytes, the event on the port included. -/
def Obligations.CallStaysInsideEstimate : Prop :=
  ∀ (s : State) (x : List Byte) (rest : List PortIn) (k : Nat),
    Duties s.cfg x.length → overruns s.cfg.outLen s.wr = false → s.inputs = decodeCall x ++ rest →
    k ≤ x.length + 1 →
    ∃ t, core.run (k + 1) s = .next t ∧ t.regs.cursor.toNat ≤ estimateDecodedLength x.length ∧
      ∀ l ∈ portLanes t.wr, l.1 < t.regs.cursor.toNat

/-- R161: decoding the same input twice, from whatever the registers and the port held before, shows after every cycle the same
registers (but for the sticky `proto_err`) and the same event: the same error with the same record, and the same bytes written. -/
def Obligations.DecodeForgetsHistory : Prop :=
  ∀ (s : State) (q : Regs s.cfg.idxW s.cfg.addrW) (p : WritePort s.cfg.addrW) (x : List Byte) (rest : List PortIn)
    (k : Nat),
    Duties s.cfg x.length → overruns s.cfg.outLen s.wr = false → overruns s.cfg.outLen p = false →
    s.inputs = decodeCall x ++ rest → k ≤ x.length + 1 →
    ∃ r w m m',
      core.run (k + 1) s = .next
        { cfg := s.cfg, regs := r, wr := w, buf := m, inputs := s.inputs.drop (k + 1) } ∧
      core.run (k + 1) (s.after q p) = .next
        { cfg := s.cfg, regs := { r with protoErr := q.protoErr }, wr := w, buf := m',
          inputs := s.inputs.drop (k + 1) } ∧
      r.protoErr = s.regs.protoErr

/-- The contract that R179 states, against the model's own transcription of the source's `decode` (`sourceDecode`: DEDUCED, log entry
15), with the host of log entries 2, 7 and 13: from any state, for any table and any input under the host's duties, `DECODE x` recovers
it. Offsets at or beyond `out_len` read as before the call. On success the call is done, `out_len` is the number of bytes, and they
stand in the buffer from offset 0. On a scan error the recorded offset is the source's. On a malformed tail the cause says so. -/
def Obligations.DecodeRefinesSource : Prop :=
  ∀ (s : State) (x : List Byte) (rest : List PortIn),
    Duties s.cfg x.length → overruns s.cfg.outLen s.wr = false → s.inputs = decodeCall x ++ rest →
    ∃ t, core.run (x.length + 2) s = .next t ∧ t.inputs = rest ∧
      (∀ k, t.regs.cursor.toNat ≤ k → t.bufferView.read k = s.bufferView.read k) ∧
      (∀ out, sourceDecode s.cfg.lut x = .ok out →
        t.callResult = some (.ok out.length) ∧
        (∀ k, k < out.length → t.bufferView.read k = out[k]?)) ∧
      (∀ o, sourceDecode s.cfg.lut x = .scanError o →
        t.callResult = some (.invalidInput o) ∧ t.regs.errCause ≠ .malformedTail) ∧
      (sourceDecode s.cfg.lut x = .malformedTail →
        t.callResult = some (.invalidInput 0) ∧ t.regs.errCause = .malformedTail)
end

