-- ==== Sys2Proof/Laws/Decode.lean ====
section
/-! SUPPORT. Fields of concatenated words, and what the first decoding level reads from a valid word. -/

namespace Sys2Proof

open Machine

theorem extract_low {n m : Nat} (x : BitVec n) (y : BitVec m) : (x ++ y).extractLsb' 0 m = y := by
  ext i hi
  simp [BitVec.getLsbD_append, hi]

theorem extract_high {n m : Nat} (x : BitVec n) (y : BitVec m) (k l : Nat) (h : m ≤ k) :
    (x ++ y).extractLsb' k l = x.extractLsb' (k - m) l := by
  ext i hi
  simp only [BitVec.getElem_extractLsb', BitVec.getLsbD_append]
  rw [if_neg (by omega)]
  congr 1
  omega

/-- The three fields of `{valid, op, data}` (R70), read from a word that is written as its upper three bits and its operand. -/
theorem decodeCmd_append (op : BitVec 3) (x : Byte) (h : op.extractLsb' 2 1 = 1#1) :
    decodeCmd (op ++ x) =
      if op.extractLsb' 0 2 = 0#2 then .start x
      else if op.extractLsb' 0 2 = 1#2 then .byte x
      else if op.extractLsb' 0 2 = 2#2 then .finish x
      else .rsvd x := by
  have hd : (op ++ x : CmdWord).extractLsb' 0 8 = x := extract_low op x
  have hv : (op ++ x : CmdWord).extractLsb' 10 1 = op.extractLsb' 2 1 := extract_high op x 10 1 (by decide)
  have ho : (op ++ x : CmdWord).extractLsb' 8 2 = op.extractLsb' 0 2 := extract_high op x 8 2 (by decide)
  unfold decodeCmd
  rw [hd, hv, ho, h]
  simp

/-- The first level gives one of five commands; the forms of `BYTE` come from the second (R73). -/
theorem decodeCmd_cases (w : CmdWord) :
    (∃ x, decodeCmd w = .nop x) ∨ (∃ x, decodeCmd w = .start x) ∨ (∃ b, decodeCmd w = .byte b) ∨
    (∃ x, decodeCmd w = .finish x) ∨ (∃ x, decodeCmd w = .rsvd x) := by
  unfold decodeCmd
  split_ifs <;> simp

/-- A byte of class `Value` has its entry's value field (R81). -/
theorem classify_value {lut : Lut} {b : Byte} {v : Sextet} (h : classify lut b = .value v) :
    v = entryVal (lutRead lut b) := by
  unfold classify classifyEntry at h
  split_ifs at h
  exact (Classification.value.inj h).symm

@[simp] theorem encode_formOf (b : Byte) (c : Classification) : encode (formOf b c) = encode (.byte b) := by
  cases c <;> rfl

end Sys2Proof
end

