-- ==== Sys2Proof/Laws/State.lean ====
section
/-! SUPPORT. One lemma per field per update of the state and of the registers, each true by unfolding once. -/

namespace Sys2Proof.Machine

variable {iw aw : Nat}

@[simp] theorem consumeByte_phase (r : Regs iw aw) : (consumeByte r).phase = r.phase := rfl
@[simp] theorem consumeByte_dstate (r : Regs iw aw) : (consumeByte r).dstate = r.dstate := rfl
@[simp] theorem consumeByte_cnt (r : Regs iw aw) : (consumeByte r).cnt = r.cnt := rfl
@[simp] theorem consumeByte_g0 (r : Regs iw aw) : (consumeByte r).g0 = r.g0 := rfl
@[simp] theorem consumeByte_g1 (r : Regs iw aw) : (consumeByte r).g1 = r.g1 := rfl
@[simp] theorem consumeByte_g2 (r : Regs iw aw) : (consumeByte r).g2 = r.g2 := rfl
@[simp] theorem consumeByte_idx (r : Regs iw aw) : (consumeByte r).idx = r.idx + 1 := rfl
@[simp] theorem consumeByte_cursor (r : Regs iw aw) : (consumeByte r).cursor = r.cursor := rfl
@[simp] theorem consumeByte_errOffset (r : Regs iw aw) : (consumeByte r).errOffset = r.errOffset := rfl
@[simp] theorem consumeByte_errCause (r : Regs iw aw) : (consumeByte r).errCause = r.errCause := rfl
@[simp] theorem consumeByte_protoErr (r : Regs iw aw) : (consumeByte r).protoErr = r.protoErr := rfl

@[simp] theorem protocolError_phase (r : Regs iw aw) : ((protocolError r).1).phase = r.phase := rfl
@[simp] theorem protocolError_dstate (r : Regs iw aw) : ((protocolError r).1).dstate = r.dstate := rfl
@[simp] theorem protocolError_cnt (r : Regs iw aw) : ((protocolError r).1).cnt = r.cnt := rfl
@[simp] theorem protocolError_g0 (r : Regs iw aw) : ((protocolError r).1).g0 = r.g0 := rfl
@[simp] theorem protocolError_g1 (r : Regs iw aw) : ((protocolError r).1).g1 = r.g1 := rfl
@[simp] theorem protocolError_g2 (r : Regs iw aw) : ((protocolError r).1).g2 = r.g2 := rfl
@[simp] theorem protocolError_idx (r : Regs iw aw) : ((protocolError r).1).idx = r.idx := rfl
@[simp] theorem protocolError_cursor (r : Regs iw aw) : ((protocolError r).1).cursor = r.cursor := rfl
@[simp] theorem protocolError_errOffset (r : Regs iw aw) : ((protocolError r).1).errOffset = r.errOffset := rfl
@[simp] theorem protocolError_errCause (r : Regs iw aw) : ((protocolError r).1).errCause = r.errCause := rfl
@[simp] theorem protocolError_protoErr (r : Regs iw aw) : ((protocolError r).1).protoErr = true := rfl

@[simp] theorem protocolError_event (r : Regs iw aw) : (protocolError r).2 = none := rfl

@[simp] theorem noEffect_regs (r : Regs iw aw) : (noEffect r).1 = r := rfl

@[simp] theorem noEffect_event (r : Regs iw aw) : (noEffect r).2 = none := rfl

@[simp] theorem openCall_phase (r : Regs iw aw) : ((openCall r).1).phase = .busy := rfl
@[simp] theorem openCall_dstate (r : Regs iw aw) : ((openCall r).1).dstate = .data := rfl
@[simp] theorem openCall_cnt (r : Regs iw aw) : ((openCall r).1).cnt = 0 := rfl
@[simp] theorem openCall_g0 (r : Regs iw aw) : ((openCall r).1).g0 = 0 := rfl
@[simp] theorem openCall_g1 (r : Regs iw aw) : ((openCall r).1).g1 = 0 := rfl
@[simp] theorem openCall_g2 (r : Regs iw aw) : ((openCall r).1).g2 = 0 := rfl
@[simp] theorem openCall_idx (r : Regs iw aw) : ((openCall r).1).idx = 0 := rfl
@[simp] theorem openCall_cursor (r : Regs iw aw) : ((openCall r).1).cursor = 0 := rfl
@[simp] theorem openCall_errOffset (r : Regs iw aw) : ((openCall r).1).errOffset = 0 := rfl
@[simp] theorem openCall_errCause (r : Regs iw aw) : ((openCall r).1).errCause = .none := rfl
@[simp] theorem openCall_protoErr (r : Regs iw aw) : ((openCall r).1).protoErr = r.protoErr := rfl

@[simp] theorem openCall_event (r : Regs iw aw) : (openCall r).2 = none := rfl

@[simp] theorem raiseInvalidInput_phase (r : Regs iw aw) (off : BitVec iw) (c : ErrCause) : ((raiseInvalidInput r off c).1).phase = .err := rfl
@[simp] theorem raiseInvalidInput_dstate (r : Regs iw aw) (off : BitVec iw) (c : ErrCause) : ((raiseInvalidInput r off c).1).dstate = r.dstate := rfl
@[simp] theorem raiseInvalidInput_cnt (r : Regs iw aw) (off : BitVec iw) (c : ErrCause) : ((raiseInvalidInput r off c).1).cnt = r.cnt := rfl
@[simp] theorem raiseInvalidInput_g0 (r : Regs iw aw) (off : BitVec iw) (c : ErrCause) : ((raiseInvalidInput r off c).1).g0 = r.g0 := rfl
@[simp] theorem raiseInvalidInput_g1 (r : Regs iw aw) (off : BitVec iw) (c : ErrCause) : ((raiseInvalidInput r off c).1).g1 = r.g1 := rfl
@[simp] theorem raiseInvalidInput_g2 (r : Regs iw aw) (off : BitVec iw) (c : ErrCause) : ((raiseInvalidInput r off c).1).g2 = r.g2 := rfl
@[simp] theorem raiseInvalidInput_idx (r : Regs iw aw) (off : BitVec iw) (c : ErrCause) : ((raiseInvalidInput r off c).1).idx = r.idx := rfl
@[simp] theorem raiseInvalidInput_cursor (r : Regs iw aw) (off : BitVec iw) (c : ErrCause) : ((raiseInvalidInput r off c).1).cursor = r.cursor := rfl
@[simp] theorem raiseInvalidInput_errOffset (r : Regs iw aw) (off : BitVec iw) (c : ErrCause) : ((raiseInvalidInput r off c).1).errOffset = off := rfl
@[simp] theorem raiseInvalidInput_errCause (r : Regs iw aw) (off : BitVec iw) (c : ErrCause) : ((raiseInvalidInput r off c).1).errCause = c := rfl
@[simp] theorem raiseInvalidInput_protoErr (r : Regs iw aw) (off : BitVec iw) (c : ErrCause) : ((raiseInvalidInput r off c).1).protoErr = r.protoErr := rfl

@[simp] theorem raiseInvalidInput_event (r : Regs iw aw) (off : BitVec iw) (c : ErrCause) :
    (raiseInvalidInput r off c).2 = none := rfl

@[simp] theorem emitFull_phase (r : Regs iw aw) (a b c d : Sextet) : ((emitFull r a b c d).1).phase = r.phase := rfl
@[simp] theorem emitFull_dstate (r : Regs iw aw) (a b c d : Sextet) : ((emitFull r a b c d).1).dstate = r.dstate := rfl
@[simp] theorem emitFull_cnt (r : Regs iw aw) (a b c d : Sextet) : ((emitFull r a b c d).1).cnt = 0 := rfl
@[simp] theorem emitFull_g0 (r : Regs iw aw) (a b c d : Sextet) : ((emitFull r a b c d).1).g0 = r.g0 := rfl
@[simp] theorem emitFull_g1 (r : Regs iw aw) (a b c d : Sextet) : ((emitFull r a b c d).1).g1 = r.g1 := rfl
@[simp] theorem emitFull_g2 (r : Regs iw aw) (a b c d : Sextet) : ((emitFull r a b c d).1).g2 = r.g2 := rfl
@[simp] theorem emitFull_idx (r : Regs iw aw) (a b c d : Sextet) : ((emitFull r a b c d).1).idx = r.idx := rfl
@[simp] theorem emitFull_cursor (r : Regs iw aw) (a b c d : Sextet) : ((emitFull r a b c d).1).cursor = r.cursor + 3 := rfl
@[simp] theorem emitFull_errOffset (r : Regs iw aw) (a b c d : Sextet) : ((emitFull r a b c d).1).errOffset = r.errOffset := rfl
@[simp] theorem emitFull_errCause (r : Regs iw aw) (a b c d : Sextet) : ((emitFull r a b c d).1).errCause = r.errCause := rfl
@[simp] theorem emitFull_protoErr (r : Regs iw aw) (a b c d : Sextet) : ((emitFull r a b c d).1).protoErr = r.protoErr := rfl

@[simp] theorem emitFull_event (r : Regs iw aw) (a b c d : Sextet) :
    (emitFull r a b c d).2 = some { addr := r.cursor, bytes := pack a b c d } := rfl

@[simp] theorem emitTruncated_phase (r : Regs iw aw) (a b c d : Sextet) (k : Nat) : ((emitTruncated r a b c d k).1).phase = r.phase := rfl
@[simp] theorem emitTruncated_dstate (r : Regs iw aw) (a b c d : Sextet) (k : Nat) : ((emitTruncated r a b c d k).1).dstate = r.dstate := rfl
@[simp] theorem emitTruncated_cnt (r : Regs iw aw) (a b c d : Sextet) (k : Nat) : ((emitTruncated r a b c d k).1).cnt = r.cnt := rfl
@[simp] theorem emitTruncated_g0 (r : Regs iw aw) (a b c d : Sextet) (k : Nat) : ((emitTruncated r a b c d k).1).g0 = r.g0 := rfl
@[simp] theorem emitTruncated_g1 (r : Regs iw aw) (a b c d : Sextet) (k : Nat) : ((emitTruncated r a b c d k).1).g1 = r.g1 := rfl
@[simp] theorem emitTruncated_g2 (r : Regs iw aw) (a b c d : Sextet) (k : Nat) : ((emitTruncated r a b c d k).1).g2 = r.g2 := rfl
@[simp] theorem emitTruncated_idx (r : Regs iw aw) (a b c d : Sextet) (k : Nat) : ((emitTruncated r a b c d k).1).idx = r.idx := rfl
@[simp] theorem emitTruncated_cursor (r : Regs iw aw) (a b c d : Sextet) (k : Nat) : ((emitTruncated r a b c d k).1).cursor = r.cursor + BitVec.ofNat aw k := rfl
@[simp] theorem emitTruncated_errOffset (r : Regs iw aw) (a b c d : Sextet) (k : Nat) : ((emitTruncated r a b c d k).1).errOffset = r.errOffset := rfl
@[simp] theorem emitTruncated_errCause (r : Regs iw aw) (a b c d : Sextet) (k : Nat) : ((emitTruncated r a b c d k).1).errCause = r.errCause := rfl
@[simp] theorem emitTruncated_protoErr (r : Regs iw aw) (a b c d : Sextet) (k : Nat) : ((emitTruncated r a b c d k).1).protoErr = r.protoErr := rfl

@[simp] theorem emitTruncated_event (r : Regs iw aw) (a b c d : Sextet) (k : Nat) :
    (emitTruncated r a b c d k).2 = some { addr := r.cursor, bytes := (pack a b c d).take k } := rfl

@[simp] theorem setSlot_phase (r : Regs iw aw) (v : Sextet) : (setSlot r v).phase = r.phase := by
  unfold setSlot; split_ifs <;> rfl
@[simp] theorem setSlot_dstate (r : Regs iw aw) (v : Sextet) : (setSlot r v).dstate = r.dstate := by
  unfold setSlot; split_ifs <;> rfl
@[simp] theorem setSlot_cnt (r : Regs iw aw) (v : Sextet) : (setSlot r v).cnt = r.cnt := by
  unfold setSlot; split_ifs <;> rfl
@[simp] theorem setSlot_idx (r : Regs iw aw) (v : Sextet) : (setSlot r v).idx = r.idx := by
  unfold setSlot; split_ifs <;> rfl
@[simp] theorem setSlot_cursor (r : Regs iw aw) (v : Sextet) : (setSlot r v).cursor = r.cursor := by
  unfold setSlot; split_ifs <;> rfl
@[simp] theorem setSlot_errOffset (r : Regs iw aw) (v : Sextet) : (setSlot r v).errOffset = r.errOffset := by
  unfold setSlot; split_ifs <;> rfl
@[simp] theorem setSlot_errCause (r : Regs iw aw) (v : Sextet) : (setSlot r v).errCause = r.errCause := by
  unfold setSlot; split_ifs <;> rfl
@[simp] theorem setSlot_protoErr (r : Regs iw aw) (v : Sextet) : (setSlot r v).protoErr = r.protoErr := by
  unfold setSlot; split_ifs <;> rfl

@[simp] theorem atEdge_cfg (s : State) : s.atEdge.cfg = s.cfg := rfl
@[simp] theorem atEdge_regs (s : State) : s.atEdge.regs = s.regs := rfl
@[simp] theorem atEdge_wr (s : State) : s.atEdge.wr = s.wr := rfl
@[simp] theorem atEdge_buf (s : State) : s.atEdge.buf = s.bufferView := rfl
@[simp] theorem atEdge_inputs (s : State) : s.atEdge.inputs = s.inputs.tail := rfl

@[simp] theorem withFetchWord_cfg (s : State) (n w : Nat) : (s.withFetchWord n w).cfg = s.cfg := rfl
@[simp] theorem withFetchWord_regs (s : State) (n w : Nat) : (s.withFetchWord n w).regs = s.regs := rfl
@[simp] theorem withFetchWord_wr (s : State) (n w : Nat) : (s.withFetchWord n w).wr = s.wr := rfl
@[simp] theorem withFetchWord_buf (s : State) (n w : Nat) : (s.withFetchWord n w).buf = s.buf := rfl
@[simp] theorem withFetchWord_bufferView (s : State) (n w : Nat) :
    (s.withFetchWord n w).bufferView = s.bufferView := rfl

@[simp] theorem withFetchWord_portIn (s : State) (n w : Nat) :
    (s.withFetchWord n w).portIn = { rst := false, cmd := BitVec.ofNat 11 (w % 2 ^ n) } := rfl

@[simp] theorem withFetchWord_tail (s : State) (n w : Nat) : (s.withFetchWord n w).inputs.tail = s.inputs := rfl

@[simp] theorem present_none : present (none : Option (WriteEvent aw)) = idlePort aw := rfl

@[simp] theorem idlePort_valid : (idlePort aw).valid = false := rfl
@[simp] theorem idlePort_addr : (idlePort aw).addr = 0 := rfl
@[simp] theorem idlePort_data : (idlePort aw).data = 0 := rfl
@[simp] theorem idlePort_len : (idlePort aw).len = 0 := rfl

@[simp] theorem present_some_valid (e : WriteEvent aw) : (present (some e)).valid = true := rfl
@[simp] theorem present_some_addr (e : WriteEvent aw) : (present (some e)).addr = e.addr := rfl
@[simp] theorem present_some_data (e : WriteEvent aw) : (present (some e)).data = lanesOf e.bytes := rfl
@[simp] theorem present_some_len (e : WriteEvent aw) :
    (present (some e)).len = BitVec.ofNat 2 e.bytes.length := rfl

section
variable (s : State) (r : Regs s.cfg.idxW s.cfg.addrW) (w : WritePort s.cfg.addrW)

@[simp] theorem after_cfg : (s.after r w).cfg = s.cfg := rfl
@[simp] theorem after_regs : (s.after r w).regs = r := rfl
@[simp] theorem after_wr : (s.after r w).wr = w := rfl
@[simp] theorem after_buf : (s.after r w).buf = s.buf := rfl
@[simp] theorem after_inputs : (s.after r w).inputs = s.inputs := rfl

@[simp] theorem afterEdge_cfg : (s.afterEdge r w).cfg = s.cfg := rfl
@[simp] theorem afterEdge_regs : (s.afterEdge r w).regs = r := rfl
@[simp] theorem afterEdge_wr : (s.afterEdge r w).wr = w := rfl
@[simp] theorem afterEdge_buf : (s.afterEdge r w).buf = s.bufferView := rfl
@[simp] theorem afterEdge_inputs : (s.afterEdge r w).inputs = s.inputs.tail := rfl

end

end Sys2Proof.Machine
end

