-- ==== Sys2Proof/Laws/Exec.lean ====
section
/-! SUPPORT. What a step can do, said once: every instruction commits one effect on the registers with at most one event. Later
proofs cite `exec_eq_commit` and `step_cases` and split `effect`, never `exec` or `step`. -/

namespace Sys2Proof.Machine

variable {iw aw : Nat}

/-- The case on `phase` shared by `BYTE` and `FINISH`, on the registers alone. -/
def phaseCase (act : Regs iw aw → Regs iw aw × Option (WriteEvent aw)) (r : Regs iw aw) :
    Regs iw aw × Option (WriteEvent aw) :=
  match r.phase with
  | .busy => act r
  | .err => noEffect r
  | .idle => protocolError r
  | .done => protocolError r

/-- The effect of an instruction on the registers, with its write event. -/
def effect (lut : Lut) (i : Instr) (r : Regs iw aw) : Regs iw aw × Option (WriteEvent aw) :=
  match i with
  | .nop _ => noEffect r
  | .start _ => openCall r
  | .byte b => phaseCase (classifiedByte (classify lut b)) r
  | .byteValue b => phaseCase (valueByte (entryVal (lutRead lut b))) r
  | .byteSkip _ => phaseCase skipByte r
  | .bytePad _ => phaseCase padByte r
  | .byteInvalid _ => phaseCase invalidByte r
  | .finish _ => phaseCase finalize r
  | .rsvd _ => protocolError r

theorem inOpenCall_eq_commit (s : State)
    (act : Regs s.cfg.idxW s.cfg.addrW → Regs s.cfg.idxW s.cfg.addrW × Option (WriteEvent s.cfg.addrW)) :
    inOpenCall s act = commit s (phaseCase act s.regs) := by
  unfold inOpenCall phaseCase
  cases s.regs.phase <;> rfl

theorem exec_eq_commit (i : Instr) (s : State) : exec i s = commit s (effect s.cfg.lut i s.regs) := by
  cases i <;> first | rfl | exact inOpenCall_eq_commit s _

/-- The three things a cycle can do: overrun the host's buffer, reset, or leave the command's effect and its event. -/
theorem step_cases (s : State) :
    (overruns s.cfg.outLen s.wr = true ∧ step s = .fault .outputOverrun) ∨
    (overruns s.cfg.outLen s.wr = false ∧ s.portIn.rst = true ∧
      step s = .next (s.afterEdge (resetRegs s.cfg.idxW s.cfg.addrW) (idlePort s.cfg.addrW))) ∨
    (overruns s.cfg.outLen s.wr = false ∧ s.portIn.rst = false ∧
      step s = .next (s.afterEdge (effect s.cfg.lut s.command s.regs).1
        (present (effect s.cfg.lut s.command s.regs).2))) := by
  unfold step
  cases h : overruns s.cfg.outLen s.wr
  · cases hr : s.portIn.rst
    · exact .inr (.inr ⟨rfl, rfl, exec_eq_commit _ s.atEdge⟩)
    · exact .inr (.inl ⟨rfl, rfl, rfl⟩)
  · exact .inl ⟨rfl, rfl⟩

theorem phaseCase_busy {act : Regs iw aw → Regs iw aw × Option (WriteEvent aw)} {r : Regs iw aw}
    (h : r.phase = .busy) : phaseCase act r = act r := by
  simp [phaseCase, h]

/-- Outside an open call nothing but `proto_err` can change, and no event arises. -/
theorem phaseCase_not_busy {act : Regs iw aw → Regs iw aw × Option (WriteEvent aw)} {r : Regs iw aw}
    (h : r.phase ≠ .busy) :
    phaseCase act r = ({ r with protoErr := r.protoErr || decide (r.phase ≠ .err) }, none) := by
  unfold phaseCase noEffect protocolError
  cases r with
  | mk phase dstate cnt g0 g1 g2 idx cursor errOffset errCause protoErr =>
    cases phase <;> simp_all

/-- In a call, an effect is that of the byte's class. -/
theorem formOf_effect (lut : Lut) (b : Byte) (r : Regs iw aw) :
    effect lut (formOf b (classify lut b)) r = effect lut (.byte b) r := by
  cases h : classify lut b with
  | value v =>
    have hv : v = entryVal (lutRead lut b) := classify_value h
    simp only [formOf, effect, h, phaseCase, classifiedByte, hv]
  | skip => simp only [formOf, effect, h, phaseCase, classifiedByte]
  | pad => simp only [formOf, effect, h, phaseCase, classifiedByte]
  | invalid => simp only [formOf, effect, h, phaseCase, classifiedByte]

/-- `GROUP_APPEND` says one of four things, by `cnt`. -/
theorem groupAppend_cases (r : Regs iw aw) (v : Sextet) :
    (r.cnt = 0#2 ∧ groupAppend r v = ({ r with g0 := v, cnt := 1#2 }, none)) ∨
    (r.cnt = 1#2 ∧ groupAppend r v = ({ r with g1 := v, cnt := 2#2 }, none)) ∨
    (r.cnt = 2#2 ∧ groupAppend r v = ({ r with g2 := v, cnt := 3#2 }, none)) ∨
    (r.cnt = 3#2 ∧ groupAppend r v = emitFull r r.g0 r.g1 r.g2 v) := by
  have hc : r.cnt = 0#2 ∨ r.cnt = 1#2 ∨ r.cnt = 2#2 ∨ r.cnt = 3#2 := by
    generalize r.cnt = c; revert c; decide
  rcases hc with h | h | h | h <;> simp [groupAppend, setSlot, h]

/-- `FINISH` in an open call says one of four things, by the table of R131. -/
theorem finalize_cases (r : Regs iw aw) :
    (malformedTail r.cnt r.dstate = true ∧ finalize r = raiseInvalidInput r 0 .malformedTail) ∨
    (r.cnt = 0#2 ∧ finalize r = ({ r with phase := .done }, none)) ∨
    (r.cnt = 2#2 ∧ finalize r = ({ r with phase := .done, cursor := r.cursor + 1 },
      some { addr := r.cursor, bytes := (pack r.g0 r.g1 0 0).take 1 })) ∨
    (r.cnt = 3#2 ∧ r.dstate ≠ .pad2 ∧ finalize r = ({ r with phase := .done, cursor := r.cursor + 2 },
      some { addr := r.cursor, bytes := (pack r.g0 r.g1 r.g2 0).take 2 })) := by
  have hc : r.cnt = 0#2 ∨ r.cnt = 1#2 ∨ r.cnt = 2#2 ∨ r.cnt = 3#2 := by
    generalize r.cnt = c; revert c; decide
  rcases hc with h | h | h | h <;> cases hd : r.dstate <;>
    simp [finalize, malformedTail, emitTail, emitTruncated, noEffect, h, hd]

end Sys2Proof.Machine
end

