-- ==== Sys2Proof/Laws/Packer.lean ====
section
/-! SUPPORT. The packer: lengths, the bits of the packed word, and the bytes of an event as they stand on the port. -/

namespace Sys2Proof.Machine

@[simp] theorem pack_length (a b c d : Sextet) : (pack a b c d).length = 3 := rfl

/-- Three byte slices of a 24-bit word, put together again. -/
theorem append_slices (w : BitVec 24) :
    w.extractLsb' 16 8 ++ w.extractLsb' 8 8 ++ w.extractLsb' 0 8 = w := by
  ext i hi
  simp only [BitVec.getElem_append, BitVec.getElem_extractLsb']
  split
  · simp [← BitVec.getLsbD_eq_getElem]
  · split
    · rw [← BitVec.getLsbD_eq_getElem]; congr 1; omega
    · rw [← BitVec.getLsbD_eq_getElem]; congr 1; omega

/-- A full event carries the packed word (R55, R144). -/
theorem lanesOf_pack (a b c d : Sextet) : lanesOf (pack a b c d) = packWord a b c d :=
  append_slices (packWord a b c d)

/-- A tail of one byte: lanes 1 and 2 are 0. -/
theorem lanesOf_take_one (a b c d : Sextet) :
    lanesOf ((pack a b c d).take 1) = (packWord a b c d).extractLsb' 16 8 ++ 0#8 ++ 0#8 := rfl

/-- A tail of two bytes: lane 2 is 0. -/
theorem lanesOf_take_two (a b c d : Sextet) :
    lanesOf ((pack a b c d).take 2) =
      (packWord a b c d).extractLsb' 16 8 ++ (packWord a b c d).extractLsb' 8 8 ++ 0#8 := rfl

/-- Bit `i` of the packed word, by the value it comes from. -/
theorem packWord_getLsbD (a b c d : Sextet) (i : Nat) :
    (packWord a b c d).getLsbD i =
      if i < 6 then d.getLsbD i else if i < 12 then c.getLsbD (i - 6)
      else if i < 18 then b.getLsbD (i - 12) else a.getLsbD (i - 18) := by
  unfold packWord
  simp only [BitVec.getLsbD_or, BitVec.getLsbD_shiftLeft, BitVec.getLsbD_setWidth]
  by_cases h1 : i < 6
  · simp [show i < 24 by omega, h1, show i < 12 by omega, show i < 18 by omega]
  by_cases h2 : i < 12
  · simp [show i < 24 by omega, h1, h2, show i < 18 by omega, show i - 6 < 24 by omega,
      BitVec.getLsbD_of_ge d i (by omega)]
  by_cases h3 : i < 18
  · simp [show i < 24 by omega, h1, h2, h3, show i - 12 < 24 by omega, BitVec.getLsbD_of_ge d i (by omega),
      BitVec.getLsbD_of_ge c (i - 6) (by omega)]
  by_cases h0 : i < 24
  · simp [h0, h1, h2, h3, show i - 18 < 24 by omega, BitVec.getLsbD_of_ge d i (by omega),
      BitVec.getLsbD_of_ge c (i - 6) (by omega), BitVec.getLsbD_of_ge b (i - 12) (by omega)]
  · simp [h0, h1, h2, h3, BitVec.getLsbD_of_ge a (i - 18) (by omega)]

/-- The packed word is its four values side by side. -/
theorem packWord_append (a b c d : Sextet) : packWord a b c d = a ++ b ++ c ++ d := by
  apply BitVec.eq_of_getLsbD_eq
  intro i hi
  rw [packWord_getLsbD]
  refine Eq.trans ?_ (BitVec.getLsbD_append (x := a ++ b ++ c) (y := d) (i := i)).symm
  simp only [BitVec.getLsbD_append]
  split_ifs <;> first | rfl | omega

end Sys2Proof.Machine
end

