-- ==== Sys2Proof/Laws/Cases.lean ====
section
/-! SUPPORT. Every effect an instruction can have, once, each with the condition under which it has it. -/

namespace Sys2Proof.Machine

variable {iw aw : Nat}

/-- The effect of `i` at the registers `r`: one constructor per row of the rules R101 to R110 and R130 to R136. -/
inductive Does (lut : Lut) (i : Instr) (r : Regs iw aw) : Regs iw aw × Option (WriteEvent aw) → Prop
  /-- `NOP` anywhere; `BYTE` and `FINISH` after an error. -/
  | nothing (hs : isStart i = false) (hr : isRsvd i = false)
      (h : byteClass lut i = none ∧ isFinish i = false ∨
        r.phase = .err ∧ (isFinish i = true ∨ (byteClass lut i).isSome = true)) :
      Does lut i r (r, none)
  /-- `RSVD` anywhere; `BYTE` and `FINISH` where no call is open. -/
  | protocol (hs : isStart i = false)
      (h : isRsvd i = true ∧ byteClass lut i = none ∧ isFinish i = false ∨
        isRsvd i = false ∧ (r.phase = .idle ∨ r.phase = .done) ∧
          (isFinish i = true ∨ (byteClass lut i).isSome = true)) :
      Does lut i r ({ r with protoErr := true }, none)
  | opens (hs : isStart i = true) (hr : isRsvd i = false) (hf : isFinish i = false) (hc : byteClass lut i = none) :
      Does lut i r (openCall r)
  | skips (hs : isStart i = false) (hr : isRsvd i = false) (hf : isFinish i = false) (hp : r.phase = .busy)
      (hc : byteClass lut i = some .skip) :
      Does lut i r ({ r with idx := r.idx + 1 }, none)
  | pads (hs : isStart i = false) (hr : isRsvd i = false) (hf : isFinish i = false) (hp : r.phase = .busy)
      (hc : byteClass lut i = some .pad) (d : DState)
      (hd : r.dstate = .data ∧ d = .pad1 ∨ r.dstate = .pad1 ∧ d = .pad2) :
      Does lut i r ({ r with idx := r.idx + 1, dstate := d }, none)
  | fills (hs : isStart i = false) (hr : isRsvd i = false) (hf : isFinish i = false) (hp : r.phase = .busy)
      (v : Sextet) (hc : byteClass lut i = some (.value v)) (hd : r.dstate = .data) (g0 g1 g2 : Sextet) (n : BitVec 2)
      (hn : r.cnt = 0#2 ∧ n = 1#2 ∧ g0 = v ∧ g1 = r.g1 ∧ g2 = r.g2 ∨
        r.cnt = 1#2 ∧ n = 2#2 ∧ g0 = r.g0 ∧ g1 = v ∧ g2 = r.g2 ∨
        r.cnt = 2#2 ∧ n = 3#2 ∧ g0 = r.g0 ∧ g1 = r.g1 ∧ g2 = v) :
      Does lut i r ({ r with idx := r.idx + 1, cnt := n, g0 := g0, g1 := g1, g2 := g2 }, none)
  | emits (hs : isStart i = false) (hr : isRsvd i = false) (hf : isFinish i = false) (hp : r.phase = .busy)
      (v : Sextet) (hc : byteClass lut i = some (.value v)) (hd : r.dstate = .data) (hn : r.cnt = 3#2) :
      Does lut i r ({ r with idx := r.idx + 1, cnt := 0, cursor := r.cursor + 3 },
        some { addr := r.cursor, bytes := pack r.g0 r.g1 r.g2 v })
  | raises (hs : isStart i = false) (hr : isRsvd i = false) (hf : isFinish i = false) (hp : r.phase = .busy)
      (c : ErrCause)
      (hc : byteClass lut i = some .invalid ∧ c = .invalidByte ∨
        (∃ v, byteClass lut i = some (.value v)) ∧ r.dstate ≠ .data ∧ c = .valueAfterPad ∨
        byteClass lut i = some .pad ∧ r.dstate = .pad2 ∧ c = .thirdPad) :
      Does lut i r ({ r with phase := .err, errOffset := r.idx, errCause := c }, none)
  | rejects (hs : isStart i = false) (hr : isRsvd i = false) (hf : isFinish i = true) (hc : byteClass lut i = none)
      (hp : r.phase = .busy) (hm : malformedTail r.cnt r.dstate = true) :
      Does lut i r ({ r with phase := .err, errOffset := 0, errCause := .malformedTail }, none)
  | finishes0 (hs : isStart i = false) (hr : isRsvd i = false) (hf : isFinish i = true) (hc : byteClass lut i = none)
      (hp : r.phase = .busy) (hn : r.cnt = 0#2) :
      Does lut i r ({ r with phase := .done }, none)
  | finishes2 (hs : isStart i = false) (hr : isRsvd i = false) (hf : isFinish i = true) (hc : byteClass lut i = none)
      (hp : r.phase = .busy) (hn : r.cnt = 2#2) :
      Does lut i r ({ r with phase := .done, cursor := r.cursor + 1 },
        some { addr := r.cursor, bytes := (pack r.g0 r.g1 0 0).take 1 })
  | finishes3 (hs : isStart i = false) (hr : isRsvd i = false) (hf : isFinish i = true) (hc : byteClass lut i = none)
      (hp : r.phase = .busy) (hn : r.cnt = 3#2) (hd : r.dstate ≠ .pad2) :
      Does lut i r ({ r with phase := .done, cursor := r.cursor + 2 },
        some { addr := r.cursor, bytes := (pack r.g0 r.g1 r.g2 0).take 2 })

/-- A byte of class `c`, in whatever form, does one of these. -/
theorem byte_does (lut : Lut) (i : Instr) (r : Regs iw aw) (c : Classification) (hs : isStart i = false)
    (hr : isRsvd i = false) (hf : isFinish i = false) (hc : byteClass lut i = some c) :
    Does lut i r (phaseCase (classifiedByte c) r) := by
  by_cases hp : r.phase = .busy
  · rw [phaseCase_busy hp]
    cases c with
    | skip => exact .skips hs hr hf hp hc
    | invalid => exact .raises hs hr hf hp _ (.inl ⟨hc, rfl⟩)
    | pad =>
      simp only [classifiedByte, padByte]
      split <;> rename_i hd
      · exact .pads hs hr hf hp hc _ (.inl ⟨hd, rfl⟩)
      · exact .pads hs hr hf hp hc _ (.inr ⟨hd, rfl⟩)
      · exact .raises hs hr hf hp _ (.inr (.inr ⟨hc, hd, rfl⟩))
    | value v =>
      simp only [classifiedByte, valueByte]
      split <;> rename_i hd
      · rcases groupAppend_cases (consumeByte r) v with ⟨hn, h⟩ | ⟨hn, h⟩ | ⟨hn, h⟩ | ⟨hn, h⟩ <;> rw [h]
        · exact .fills hs hr hf hp v hc hd _ _ _ _ (.inl ⟨hn, rfl, rfl, rfl, rfl⟩)
        · exact .fills hs hr hf hp v hc hd _ _ _ _ (.inr (.inl ⟨hn, rfl, rfl, rfl, rfl⟩))
        · exact .fills hs hr hf hp v hc hd _ _ _ _ (.inr (.inr ⟨hn, rfl, rfl, rfl, rfl⟩))
        · exact .emits hs hr hf hp v hc hd hn
      · exact .raises hs hr hf hp _ (.inr (.inl ⟨⟨v, hc⟩, by simp [hd], rfl⟩))
      · exact .raises hs hr hf hp _ (.inr (.inl ⟨⟨v, hc⟩, by simp [hd], rfl⟩))
  · have hsome : (byteClass lut i).isSome = true := by rw [hc]; rfl
    unfold phaseCase
    split <;> rename_i h
    · exact absurd h hp
    · exact .nothing hs hr (.inr ⟨h, .inr hsome⟩)
    · exact .protocol hs (.inr ⟨hr, .inl h, .inr hsome⟩)
    · exact .protocol hs (.inr ⟨hr, .inr h, .inr hsome⟩)

/-- What an instruction does, whatever it is. -/
theorem effect_does (lut : Lut) (i : Instr) (r : Regs iw aw) : Does lut i r (effect lut i r) := by
  cases i with
  | nop x => exact .nothing rfl rfl (.inl ⟨rfl, rfl⟩)
  | start x => exact .opens rfl rfl rfl rfl
  | rsvd x => exact .protocol rfl (.inl ⟨rfl, rfl, rfl⟩)
  | byte b => exact byte_does lut _ r _ rfl rfl rfl rfl
  | byteValue b => exact byte_does lut (.byteValue b) r (.value (entryVal (lutRead lut b))) rfl rfl rfl rfl
  | byteSkip b => exact byte_does lut (.byteSkip b) r .skip rfl rfl rfl rfl
  | bytePad b => exact byte_does lut (.bytePad b) r .pad rfl rfl rfl rfl
  | byteInvalid b => exact byte_does lut (.byteInvalid b) r .invalid rfl rfl rfl rfl
  | finish x =>
    simp only [effect]
    by_cases hp : r.phase = .busy
    · rw [phaseCase_busy hp]
      rcases finalize_cases r with ⟨hm, h⟩ | ⟨hn, h⟩ | ⟨hn, h⟩ | ⟨hn, hd, h⟩ <;> rw [h]
      · exact .rejects rfl rfl rfl rfl hp hm
      · exact .finishes0 rfl rfl rfl rfl hp hn
      · exact .finishes2 rfl rfl rfl rfl hp hn
      · exact .finishes3 rfl rfl rfl rfl hp hn hd
    · unfold phaseCase
      split <;> rename_i h
      · exact absurd h hp
      · exact .nothing rfl rfl (.inr ⟨h, .inl rfl⟩)
      · exact .protocol rfl (.inr ⟨rfl, .inl h, .inl rfl⟩)
      · exact .protocol rfl (.inr ⟨rfl, .inr h, .inl rfl⟩)

/-- An instruction completes, with one of these effects. -/
theorem exec_does (i : Instr) (s : State) :
    ∃ e, Does s.cfg.lut i s.regs e ∧ exec i s = .next (s.after e.1 (present e.2)) :=
  ⟨_, effect_does _ _ _, exec_eq_commit i s⟩

/-- What a cycle that answers a next state has done. -/
theorem step_next {s t : State} (h : step s = .next t) :
    (s.portIn.rst = true ∧ t = s.afterEdge (resetRegs s.cfg.idxW s.cfg.addrW) (idlePort s.cfg.addrW)) ∨
    (s.portIn.rst = false ∧
      ∃ e, Does s.cfg.lut s.command s.regs e ∧ t = s.afterEdge e.1 (present e.2)) := by
  rcases step_cases s with ⟨_, h2⟩ | ⟨_, hr, h2⟩ | ⟨_, hr, h2⟩ <;> rw [h2] at h
  · cases h
  · exact .inl ⟨hr, (Host.Outcome.next.inj h).symm⟩
  · exact .inr ⟨hr, _, effect_does _ _ _, (Host.Outcome.next.inj h).symm⟩

end Sys2Proof.Machine
end

