-- ==== Sys2Proof/Laws/Memory.lean ====
section
/-! SUPPORT. The host's buffer: read after write, and the canonical form that every operation keeps. -/

namespace Sys2Proof.Machine

variable {aw : Nat}

@[simp] theorem Memory.read_nil (a : Nat) : Memory.read [] a = none := rfl

theorem Memory.read_write_same (m : Memory) (a : Nat) (b : Byte) : (m.write a b).read a = some b := by
  induction m with
  | nil => simp [Memory.write, Memory.read]
  | cons c m ih =>
    obtain ⟨k, v⟩ := c
    simp only [Memory.write]
    split_ifs with h₁ h₂
    · simp [Memory.read]
    · simp [Memory.read]
    · simpa [Memory.read, Ne.symm h₂] using ih

theorem Memory.read_write_other (m : Memory) {a a' : Nat} (b : Byte) (h : a' ≠ a) :
    (m.write a b).read a' = m.read a' := by
  induction m with
  | nil => simp [Memory.write, Memory.read, Ne.symm h]
  | cons c m ih =>
    obtain ⟨k, v⟩ := c
    simp only [Memory.write]
    split_ifs with h₁ h₂
    · simp [Memory.read, Ne.symm h]
    · subst h₂; simp [Memory.read, Ne.symm h]
    · simp only [Memory.read, ih]

/-- A stored byte or an old cell: the cells of a written buffer. -/
theorem Memory.mem_write {m : Memory} {a : Nat} {b : Byte} {c : Host.Cell} (h : c ∈ m.write a b) :
    c = (a, b) ∨ c ∈ m := by
  induction m with
  | nil => simpa [Memory.write] using h
  | cons d m ih =>
    obtain ⟨k, v⟩ := d
    simp only [Memory.write] at h
    split_ifs at h with h₁ h₂
    · simpa using h
    · rcases List.mem_cons.1 h with h | h
      · exact .inl h
      · exact .inr (List.mem_cons_of_mem _ h)
    · rcases List.mem_cons.1 h with h | h
      · exact .inr (h ▸ List.mem_cons_self)
      · exact (ih h).imp_right (List.mem_cons_of_mem _)

theorem Memory.wf_iff (m : Memory) : m.wf = true ↔ m.Pairwise fun c d => c.1 < d.1 := by simp [Memory.wf]

theorem Memory.wf_write {m : Memory} (h : m.wf = true) (a : Nat) (b : Byte) : (m.write a b).wf = true := by
  rw [Memory.wf_iff] at h ⊢
  induction m with
  | nil => simp [Memory.write]
  | cons c m ih =>
    obtain ⟨k, v⟩ := c
    obtain ⟨hk, hm⟩ := List.pairwise_cons.1 h
    simp only [Memory.write]
    split_ifs with h₁ h₂
    · refine List.pairwise_cons.2 ⟨fun d hd => ?_, h⟩
      rcases List.mem_cons.1 hd with rfl | hd
      · exact h₁
      · exact h₁.trans (hk d hd)
    · subst h₂; exact List.pairwise_cons.2 ⟨hk, hm⟩
    · refine List.pairwise_cons.2 ⟨fun d hd => ?_, ih hm⟩
      rcases Memory.mem_write hd with rfl | hd
      · simp only; omega
      · exact hk d hd

/-- Applying lanes one by one keeps the form. -/
theorem Memory.wf_foldl_write (ls : List (Nat × Byte)) {m : Memory} (h : m.wf = true) :
    (ls.foldl (fun m l => m.write l.1 l.2) m).wf = true := by
  induction ls generalizing m with
  | nil => exact h
  | cons l ls ih => exact ih (Memory.wf_write h l.1 l.2)

/-- The host's application of a presented event keeps the form. -/
theorem applyPort_wf (p : WritePort aw) {m : Memory} (h : m.wf = true) : (applyPort p m).wf = true :=
  Memory.wf_foldl_write _ h

theorem Memory.read_foldl_other (ls : List (Nat × Byte)) (m : Memory) {a : Nat} (h : ∀ l ∈ ls, a ≠ l.1) :
    (ls.foldl (fun m l => m.write l.1 l.2) m).read a = m.read a := by
  induction ls generalizing m with
  | nil => rfl
  | cons l ls ih =>
    rw [List.foldl_cons, ih _ fun l' hl => h l' (List.mem_cons_of_mem _ hl)]
    exact Memory.read_write_other m l.2 (h l List.mem_cons_self)

theorem Memory.mem_foldl_write {ls : List (Nat × Byte)} {m : Memory} {c : Host.Cell}
    (h : c ∈ ls.foldl (fun m l => m.write l.1 l.2) m) : c ∈ ls ∨ c ∈ m := by
  induction ls generalizing m with
  | nil => exact .inr h
  | cons l ls ih =>
    rcases ih h with h | h
    · exact .inl (List.mem_cons_of_mem _ h)
    · rcases Memory.mem_write h with rfl | h
      · exact .inl List.mem_cons_self
      · exact .inr h

/-- Without an event the buffer stays. -/
theorem applyPort_idle (p : WritePort aw) (m : Memory) (h : p.valid = false) : applyPort p m = m := by
  simp [applyPort, portLanes, h]

theorem reset_buf_wf : State.reset.buf.wf = true := by decide

end Sys2Proof.Machine
end

