-- ==== Sys2Proof/Laws/PerInstr.lean ====
section
/-! SUPPORT. A law of the syntax, one lemma per constructor: the word of an instruction has the fixed bits of its row in
spec/opcode_table.json. -/

namespace Sys2Proof.Laws.EncodedPattern

/-- `mask` and `match` of an instruction's row. -/
def tableRow : Instr → CmdWord × CmdWord
  | .nop _ => (0x400, 0x000)
  | .start _ => (0x700, 0x400)
  | .byte _ => (0x700, 0x500)
  | .byteValue _ => (0x700, 0x500)
  | .byteSkip _ => (0x700, 0x500)
  | .bytePad _ => (0x700, 0x500)
  | .byteInvalid _ => (0x700, 0x500)
  | .finish _ => (0x700, 0x600)
  | .rsvd _ => (0x700, 0x700)

/-- The word under the row's mask is the row's pattern. -/
def Statement (i : Instr) : Prop := encode i &&& (tableRow i).1 = (tableRow i).2

/-- An operand byte never reaches the three bits above it. -/
theorem opcode_and_mask (op : BitVec 3) (x : Byte) : (op ++ x) &&& (7#3 ++ 0#8) = op ++ 0#8 := by
  ext i hi
  simp only [BitVec.getElem_and, BitVec.getElem_append]
  split <;> rename_i h
  · simp
  · have h3 : i - 8 = 0 ∨ i - 8 = 1 ∨ i - 8 = 2 := by omega
    rcases h3 with h3 | h3 | h3 <;> simp [h3]

theorem nop (x : BitVec 10) : Statement (.nop x) := by
  unfold Statement encode tableRow
  ext i hi
  simp only [BitVec.getElem_and, BitVec.getElem_append]
  have hi' : i = 0 ∨ i = 1 ∨ i = 2 ∨ i = 3 ∨ i = 4 ∨ i = 5 ∨ i = 6 ∨ i = 7 ∨ i = 8 ∨ i = 9 ∨ i = 10 := by omega
  rcases hi' with h | h | h | h | h | h | h | h | h | h | h <;> subst h <;> simp

theorem start (x : Byte) : Statement (.start x) := opcode_and_mask 4#3 x
theorem byte (b : Byte) : Statement (.byte b) := opcode_and_mask 5#3 b
theorem byteValue (b : Byte) : Statement (.byteValue b) := opcode_and_mask 5#3 b
theorem byteSkip (b : Byte) : Statement (.byteSkip b) := opcode_and_mask 5#3 b
theorem bytePad (b : Byte) : Statement (.bytePad b) := opcode_and_mask 5#3 b
theorem byteInvalid (b : Byte) : Statement (.byteInvalid b) := opcode_and_mask 5#3 b
theorem finish (x : Byte) : Statement (.finish x) := opcode_and_mask 6#3 x
theorem rsvd (x : Byte) : Statement (.rsvd x) := opcode_and_mask 7#3 x

end Sys2Proof.Laws.EncodedPattern
end

