-- ==== Sys2Proof/Laws/Port.lean ====
section
/-! SUPPORT. A presented event whose bytes lie below 2^`ADDR_W`: its lanes, its effect on the buffer, and when it overruns. -/

namespace Sys2Proof.Machine

variable {aw : Nat}

/-- The lanes of a word that is three bytes side by side. -/
theorem lane_bytes (a b c : Byte) :
    (a ++ b ++ c : BitVec 24).extractLsb' 16 8 = a ∧ (a ++ b ++ c : BitVec 24).extractLsb' 8 8 = b ∧
      (a ++ b ++ c : BitVec 24).extractLsb' 0 8 = c := by
  refine ⟨?_, ?_, extract_low (a ++ b) c⟩
  · refine (extract_high (a ++ b) c 16 8 (by decide)).trans ((extract_high a b 8 8 (by decide)).trans ?_)
    ext i hi
    simp [← BitVec.getLsbD_eq_getElem]
  · exact (extract_high (a ++ b) c 8 8 (by decide)).trans (extract_low a b)

/-- An address does not wrap below the end of its space. -/
theorem toNat_add_lane (a : BitVec aw) {k n : Nat} (h : a.toNat + n < 2 ^ aw) (hk : k ≤ n) :
    (a + BitVec.ofNat aw k).toNat = a.toNat + k := by
  rw [BitVec.toNat_add, BitVec.toNat_ofNat, Nat.add_mod_mod, Nat.mod_eq_of_lt (by omega)]

theorem portLanes_present (a : BitVec aw) (bs : List Byte) (h1 : 1 ≤ bs.length) (h3 : bs.length ≤ 3)
    (hw : a.toNat + bs.length < 2 ^ aw) :
    portLanes (present (some { addr := a, bytes := bs })) = bs.mapIdx fun k b => (a.toNat + k, b) := by
  obtain ⟨l1, l2, l3⟩ := lane_bytes (bs.getD 0 0) (bs.getD 1 0) (bs.getD 2 0)
  have e : portLanes (present (some (⟨a, bs⟩ : WriteEvent aw))) =
      [((a + BitVec.ofNat aw 0).toNat, bs.getD 0 0), ((a + BitVec.ofNat aw 1).toNat, bs.getD 1 0),
       ((a + BitVec.ofNat aw 2).toNat, bs.getD 2 0)].take (BitVec.ofNat 2 bs.length).toNat := by
    simp only [portLanes, present_some_valid, if_true, laneOffset, present_some_addr, present_some_data,
      present_some_len, lanesOf, l1, l2, l3]
  rw [e]
  match bs, h1, h3 with
  | [x], _, _ => simp
  | [x, y], _, _ => simp [toNat_add_lane a hw (k := 1) (by simp)]
  | [x, y, z], _, _ =>
    simp [toNat_add_lane a hw (k := 1) (by simp), toNat_add_lane a hw (k := 2) (by simp)]

/-- Reading the buffer once the event is applied: the event's bytes, and elsewhere what stood there. -/
theorem read_applyPort_present (a : BitVec aw) (bs : List Byte) (h1 : 1 ≤ bs.length) (h3 : bs.length ≤ 3)
    (hw : a.toNat + bs.length < 2 ^ aw) (m : Memory) (k : Nat) :
    (applyPort (present (some { addr := a, bytes := bs })) m).read k =
      if a.toNat ≤ k ∧ k < a.toNat + bs.length then bs[k - a.toNat]? else m.read k := by
  unfold applyPort
  rw [portLanes_present a bs h1 h3 hw]
  generalize a.toNat = n
  match bs, h1, h3 with
  | [x], _, _ =>
    by_cases h : k = n
    · subst h; simp [Memory.read_write_same]
    · rw [Memory.read_foldl_other, if_neg]
      · simp; omega
      · simpa using h
  | [x, y], _, _ =>
    simp only [List.mapIdx_cons, List.mapIdx_nil, List.foldl_cons, List.foldl_nil, List.length_cons, List.length_nil]
    by_cases h : k = n + 1
    · subst h; simp [Memory.read_write_same]
    by_cases h : k = n
    · subst h
      rw [Memory.read_write_other _ _ (by omega), if_pos (by omega)]
      simp [Memory.read_write_same]
    · rw [Memory.read_write_other _ _ (by omega), Memory.read_write_other _ _ (by omega), if_neg (by omega)]
  | [x, y, z], _, _ =>
    simp only [List.mapIdx_cons, List.mapIdx_nil, List.foldl_cons, List.foldl_nil, List.length_cons, List.length_nil]
    by_cases h : k = n + 2
    · subst h; simp [Memory.read_write_same]
    by_cases h : k = n + 1
    · subst h
      rw [Memory.read_write_other _ _ (by omega), if_pos (by omega)]
      simp [Memory.read_write_same]
    by_cases h : k = n
    · subst h
      rw [Memory.read_write_other _ _ (by omega), Memory.read_write_other _ _ (by omega), if_pos (by omega)]
      simp [Memory.read_write_same]
    · rw [Memory.read_write_other _ _ (by omega), Memory.read_write_other _ _ (by omega),
        Memory.read_write_other _ _ (by omega), if_neg (by omega)]

/-- An event inside the host's buffer does not overrun it. -/
theorem overruns_present {n : Nat} (a : BitVec aw) (bs : List Byte) (h1 : 1 ≤ bs.length) (h3 : bs.length ≤ 3)
    (hw : a.toNat + bs.length < 2 ^ aw) (hn : a.toNat + bs.length ≤ n) :
    overruns n (present (some { addr := a, bytes := bs })) = false := by
  unfold overruns
  rw [portLanes_present a bs h1 h3 hw, List.any_eq_false]
  intro l hl
  rw [List.mem_mapIdx] at hl
  obtain ⟨k, hk, rfl⟩ := hl
  simp
  omega

@[simp] theorem portLanes_idlePort : portLanes (idlePort aw) = [] := rfl

@[simp] theorem overruns_idlePort (n : Nat) : overruns n (idlePort aw) = false := rfl

end Sys2Proof.Machine
end

