-- ==== Sys2Proof/Laws/Run.lean ====
section
/-! SUPPORT. Runs of several cycles, one cycle at a time. -/

namespace Sys2Proof.Machine

theorem run_succ_next (M : Host.Core) {s t : M.State} (k : Nat) (h : M.step s = .next t) :
    M.run (k + 1) s = M.run k t := by
  simp [Host.Core.run, h]

theorem run_succ_fault (M : Host.Core) {s : M.State} {f : M.Fault} (k : Nat) (h : M.step s = .fault f) :
    M.run (k + 1) s = .fault f := by
  simp [Host.Core.run, h]

/-- The second decoding level does not change an effect: in a call the form of a byte has its class, outside one there is none. -/
theorem effect_decode {iw aw : Nat} (lut : Lut) (busy : Bool) (w : CmdWord) (r : Regs iw aw) :
    effect lut (decode lut busy w) r = effect lut (decodeCmd w) r := by
  unfold decode
  cases busy
  · rfl
  · simp only [if_true]
    cases h : decodeCmd w <;> simp only [selectForm]
    exact formOf_effect lut _ r

/-- One cycle of a run that does not start in an overrun: the first pending word's effect. -/
theorem run_word (s : State) (w : CmdWord) (rest : List PortIn) (k : Nat)
    (ho : overruns s.cfg.outLen s.wr = false) (hi : s.inputs = { rst := false, cmd := w } :: rest) :
    core.run (k + 1) s = core.run k
      ({ cfg := s.cfg
         regs := (effect s.cfg.lut (decodeCmd w) s.regs).1
         wr := present (effect s.cfg.lut (decodeCmd w) s.regs).2
         buf := s.bufferView
         inputs := rest } : State) := by
  refine run_succ_next core k ?_
  show step s = _
  rcases step_cases s with ⟨h, _⟩ | ⟨_, h, _⟩ | ⟨_, _, h⟩
  · simp [ho] at h
  · simp [State.portIn, hi] at h
  · rw [h, State.command, effect_decode]
    simp [State.portIn, hi, State.afterEdge]
    rfl

theorem decodeCmd_encode_byte (b : Byte) : decodeCmd (encode (.byte b)) = .byte b := by
  simpa [encode] using decodeCmd_append 5#3 b (by decide)

end Sys2Proof.Machine
end

