-- ==== Sys2Proof/Tests/Slice0.lean ====
section
/-! SUPPORT. Tests on small states, expected results from spec/95_test_vectors.md (L1, L2, L3) or from the rule named; and the
witnesses that the hypotheses of each obligation can be met, each clause at its boundary. -/

namespace Sys2Proof.Tests

open Sys2Proof Sys2Proof.Machine

/-! ## A small machine -/

/-- 8-bit counters, the Standard table, a buffer of 64 bytes. -/
def cfg8 : Config := { idxW := 8, addrW := 8, lut := standardLut, outLen := 64 }

/-- A state of it, its port idle. -/
def st (r : Regs 8 8) : State := { cfg := cfg8, regs := r, wr := idlePort 8, buf := [], inputs := [] }

/-- The registers of an open call; `L2.4` to `L2.8` give their values in this order. -/
def busy (d : DState) (n : BitVec 2) (g0 g1 g2 : Sextet) (i c : BitVec 8) : Regs 8 8 :=
  { resetRegs 8 8 with phase := .busy, dstate := d, cnt := n, g0 := g0, g1 := g1, g2 := g2, idx := i, cursor := c }

/-- The registers after a call, with an error record. -/
def ended (p : Phase) (d : DState) (n : BitVec 2) (i c off : BitVec 8) (cause : ErrCause) : Regs 8 8 :=
  { resetRegs 8 8 with phase := p, dstate := d, cnt := n, idx := i, cursor := c, errOffset := off, errCause := cause }

/-- `phase`, `dstate`, `cnt`, `idx`, `cursor` of a next state. -/
def call (o : Host.Outcome State Fault Refusal) : Option (Phase × DState × Nat × Nat × Nat) :=
  match o with
  | .next t => some (t.regs.phase, t.regs.dstate, t.regs.cnt.toNat, t.regs.idx.toNat, t.regs.cursor.toNat)
  | .fault _ => none
  | .refused _ => none

/-- `err_offset`, `err_cause` and `proto_err` of a next state. -/
def record (o : Host.Outcome State Fault Refusal) : Option (Nat × ErrCause × Bool) :=
  match o with
  | .next t => some (t.regs.errOffset.toNat, t.regs.errCause, t.regs.protoErr)
  | .fault _ => none
  | .refused _ => none

/-- `wr_valid`, `wr_addr`, `wr_len` and `wr_data` of a next state. -/
def event (o : Host.Outcome State Fault Refusal) : Option (Bool × Nat × Nat × BitVec 24) :=
  match o with
  | .next t => some (t.wr.valid, t.wr.addr.toNat, t.wr.len.toNat, t.wr.data)
  | .fault _ => none
  | .refused _ => none

/-- The buffer of a next state once the presented event is applied. -/
def buffer (o : Host.Outcome State Fault Refusal) : Option Memory :=
  match o with
  | .next t => some t.bufferView
  | .fault _ => none
  | .refused _ => none

/-- The fault of an outcome. -/
def faultOf (o : Host.Outcome State Fault Refusal) : Option Fault :=
  match o with
  | .next _ => none
  | .fault f => some f
  | .refused _ => none

/-! ## Ill-formed terms, one per check -/

theorem test_wf_byte_in_call_refused : (Instr.byte 0x61).wf standardLut true = false := by decide
theorem test_wf_value_of_pad_refused : (Instr.byteValue 0x3D).wf standardLut true = false := by decide
theorem test_wf_value_outside_call_refused : (Instr.byteValue 0x61).wf standardLut false = false := by decide
theorem test_wf_skip_of_value_refused : (Instr.byteSkip 0x61).wf standardLut true = false := by decide
theorem test_wf_skip_outside_call_refused : (Instr.byteSkip 0x0A).wf standardLut false = false := by decide
theorem test_wf_pad_of_skip_refused : (Instr.bytePad 0x0A).wf standardLut true = false := by decide
theorem test_wf_pad_outside_call_refused : (Instr.bytePad 0x3D).wf standardLut false = false := by decide
theorem test_wf_invalid_of_value_refused : (Instr.byteInvalid 0x61).wf standardLut true = false := by decide
theorem test_wf_invalid_outside_call_refused : (Instr.byteInvalid 0x20).wf standardLut false = false := by decide
theorem test_config_idx_width_zero_refused : Config.wf { cfg8 with idxW := 0 } = false := by decide
theorem test_config_addr_width_one_refused : Config.wf { cfg8 with addrW := 1 } = false := by decide
theorem test_memory_unsorted_refused : Memory.wf [(3, 0), (2, 0)] = false := by decide
theorem test_memory_repeat_refused : Memory.wf [(3, 0), (3, 1)] = false := by decide

set_option maxRecDepth 20000 in
/-- Every byte has value 0: `WF_LUT` fails (R32). -/
theorem test_constant_table_not_wf : wfLut (Vector.replicate 256 0) = false := by decide

/-! ## Decoding: words written out bit by bit (R70, R71; L2.3, L3-1) -/

theorem test_decode_nop : decodeCmd 0b00000000000 = .nop 0 := by decide
theorem test_decode_nop_ignored_bits : decodeCmd 0b01101100001 = .nop 0b1101100001 := by decide
theorem test_decode_start : decodeCmd 0b10000000000 = .start 0 := by decide
theorem test_decode_start_ignored_bits : decodeCmd 0b10011111111 = .start 0xFF := by decide
theorem test_decode_byte : decodeCmd 0b10101100001 = .byte 0x61 := by decide
theorem test_decode_finish : decodeCmd 0b11000000000 = .finish 0 := by decide
theorem test_decode_rsvd : decodeCmd 0b11101010101 = .rsvd 0x55 := by decide

/-- In an open call the class splits `BYTE` (R73): `a`, line feed, `=` and space. -/
theorem test_decode_byte_forms :
    decode standardLut true 0b10101100001 = .byteValue 0x61 ∧
    decode standardLut true 0b10100001010 = .byteSkip 0x0A ∧
    decode standardLut true 0b10100111101 = .bytePad 0x3D ∧
    decode standardLut true 0b10100100000 = .byteInvalid 0x20 := by decide

/-- Outside one no byte is classified (R109). -/
theorem test_decode_byte_outside_call : decode standardLut false 0b10100100000 = .byte 0x20 := by decide

theorem test_decode_number_rejected :
    decodeNat 0x7FF = .ok (.rsvd 0xFF) ∧ decodeNat 0x800 = .error .notElevenBits := by
  constructor <;> rfl

theorem test_decode_table_word :
    decodeTableWord 16 0x3FF = some (.nop 0x3FF) ∧ decodeTableWord 16 0x561 = some (.byte 0x61) ∧
    decodeTableWord 16 0x800 = none := by decide

theorem test_encode_words :
    encode (.nop 0) = 0x000#11 ∧ encode (.start 0) = 0x400#11 ∧ encode (.byteValue 0x61) = 0x561#11 ∧
    encode (.bytePad 0x3D) = 0x53D#11 ∧ encode (.finish 0) = 0x600#11 ∧ encode (.rsvd 0x55) = 0x755#11 := by decide

/-- The codes of R77, R78 and R79. -/
theorem test_codes :
    [DState.data, .pad1, .pad2].map dstateCode = [0b00, 0b01, 0b10] ∧
    [Phase.idle, .busy, .done, .err].map phaseCode = [0b00, 0b01, 0b10, 0b11] ∧
    [ErrCause.none, .invalidByte, .valueAfterPad, .thirdPad, .malformedTail].map causeCode = [0, 1, 2, 3, 4] := by decide

/-! ## The table (L2.1) and the packer (L2.2) -/

theorem test_classify_edges :
    classify standardLut 0x41 = .value 0 ∧ classify standardLut 0x5A = .value 25 ∧
    classify standardLut 0x61 = .value 26 ∧ classify standardLut 0x7A = .value 51 ∧
    classify standardLut 0x30 = .value 52 ∧ classify standardLut 0x39 = .value 61 ∧
    classify standardLut 0x2B = .value 62 ∧ classify standardLut 0x2F = .value 63 ∧
    classify standardLut 0x3D = .pad ∧ classify standardLut 0x0D = .skip := by decide

theorem test_classify_invalid_edges :
    classify standardLut 0x20 = .invalid ∧ classify standardLut 0x5B = .invalid ∧
    classify standardLut 0x60 = .invalid ∧ classify standardLut 0x0B = .invalid ∧
    classify standardLut 0xC1 = .invalid ∧ classify standardLut 0xFF = .invalid := by decide

theorem test_pack :
    pack 26 6 21 44 = [0x68, 0x65, 0x6C] ∧ pack 0 16 0 0 = [0x01, 0x00, 0x00] ∧
    pack 0 0 60 0 = [0x00, 0x0F, 0x00] ∧ pack 0 0 3 0 = [0x00, 0x00, 0xC0] := by decide

/-! ## One instruction (L2.3 to L2.8) -/

theorem test_nop : record (exec (.nop 0x3FF) (st (ended .err .data 1 1 0 1 .invalidByte))) =
    some (1, .invalidByte, false) := by decide

theorem test_nop_drops_event : event (exec (.nop 0) { st (busy .data 0 0 0 0 4 3) with
    wr := { valid := true, addr := 0, data := 0x68656C, len := 3 } }) = some (false, 0, 0, 0) := by decide

theorem test_start : call (exec (.start 0xFF) (st (busy .pad1 2 26 6 21 7 3))) =
    some (.busy, .data, 0, 0, 0) := by decide

theorem test_start_keeps_proto_err : record (exec (.start 0) (st { ended .err .pad1 1 2 0 2 .valueAfterPad with
    protoErr := true })) = some (0, .none, true) := by decide

theorem test_byte_after_reset : record (exec (.byte 0x61) (st (resetRegs 8 8))) = some (0, .none, true) := by decide

theorem test_byte_in_call : call (exec (.byte 0x61) (st (busy .data 0 0 0 0 0 0))) =
    some (.busy, .data, 1, 1, 0) := by decide

theorem test_value_completes_group :
    event (exec (.byteValue 0x73) (st (busy .data 3 26 6 21 3 0))) = some (true, 0, 3, 0x68656C) ∧
    call (exec (.byteValue 0x73) (st (busy .data 3 26 6 21 3 0))) = some (.busy, .data, 0, 4, 3) := by decide

theorem test_value_after_pad : record (exec (.byteValue 0x56) (st (busy .pad1 1 26 0 0 2 0))) =
    some (2, .valueAfterPad, false) := by decide

theorem test_skip_between_pads : call (exec (.byteSkip 0x0D) (st (busy .pad1 2 26 26 0 3 0))) =
    some (.busy, .pad1, 2, 4, 0) := by decide

theorem test_skip_index_wraps : call (exec (.byteSkip 0x0A) (st (busy .data 0 0 0 0 255 0))) =
    some (.busy, .data, 0, 0, 0) := by decide

theorem test_pad_first : call (exec (.bytePad 0x3D) (st (busy .data 1 26 0 0 1 0))) =
    some (.busy, .pad1, 1, 2, 0) := by decide

theorem test_pad_third : record (exec (.bytePad 0x3D) (st (busy .pad2 0 0 0 0 2 0))) =
    some (2, .thirdPad, false) := by decide

theorem test_invalid : record (exec (.byteInvalid 0x20) (st (busy .pad2 2 26 26 0 4 0))) =
    some (4, .invalidByte, false) := by decide

theorem test_invalid_keeps_index : call (exec (.byteInvalid 0x20) (st (busy .data 1 26 0 0 1 0))) =
    some (.err, .data, 1, 1, 0) := by decide

theorem test_finish_tails :
    event (exec (.finish 0) (st (busy .pad2 2 27 0 21 8 3))) = some (true, 3, 1, 0x6C0000) ∧
    event (exec (.finish 0) (st (busy .pad1 3 27 6 60 8 3))) = some (true, 3, 2, 0x6C6F00) ∧
    call (exec (.finish 0) (st (busy .pad1 3 27 6 60 8 3))) = some (.done, .pad1, 3, 8, 5) := by decide

theorem test_finish_malformed :
    record (exec (.finish 0) (st (busy .pad2 3 26 26 26 5 0))) = some (0, .malformedTail, false) ∧
    record (exec (.finish 0) (st (busy .pad1 1 26 0 0 2 0))) = some (0, .malformedTail, false) := by decide

theorem test_rsvd : call (exec (.rsvd 0x55) (st (busy .data 3 26 6 21 3 0))) = some (.busy, .data, 3, 3, 0) ∧
    record (exec (.rsvd 0x55) (st (busy .data 3 26 6 21 3 0))) = some (0, .none, true) := by decide

/-! ## One cycle -/

/-- `rst = 1` with `START` on the port: the command is dropped (L2.3, last row). -/
theorem test_reset_wins : call (step { st (busy .pad1 2 26 6 21 7 3) with
    inputs := [{ rst := true, cmd := 0x400 }] }) = some (.idle, .data, 0, 0, 0) := by decide

/-- Third group at `wr_addr = 6` with `ADDR_W = 3`: offsets 6, 7 and 0 (L2.9). -/
theorem test_lanes_wrap : buffer (step
    { cfg := { cfg8 with addrW := 3 }
      regs := resetRegs 8 3
      wr := { valid := true, addr := 6, data := 0x69A69A, len := 3 }
      buf := []
      inputs := [] }) =
    some [(0, 0x9A), (6, 0x69), (7, 0xA6)] := by decide

/-- A lane at `OUT_LEN` is an overrun (R61). -/
theorem test_overrun : faultOf (step { st (resetRegs 8 8) with
    wr := { valid := true, addr := 62, data := 0, len := 3 } }) = some .outputOverrun := by decide

theorem test_fetch_word_runs_first : call (step (State.reset.withFetchWord 16 0x400)) =
    some (.busy, .data, 0, 0, 0) := by decide

theorem test_assemble : assemble [['B', 'Y', 'T', 'E', ' ', '\'', 'a', '\''], ['D', 'E', 'C', 'O', 'D', 'E', ' ',
    '"', 'Q', '\\', 'n', '"', ' ', ';'], ['R', 'S', 'V', 'D', ' ', '0', 'x', '5', '5']] =
    some [0x561, 0x400, 0x551, 0x50A, 0x600, 0x755] := by decide

/-- Two forms that R85 leaves open (log entry 14): no blank before the operand, and the quote unescaped. -/
theorem test_assemble_open_forms :
    assembleLine ['B', 'Y', 'T', 'E', '\'', 'a', '\''] = some [0x561] ∧
    assembleLine ['B', 'Y', 'T', 'E', ' ', '\'', '\'', '\''] = some [0x527] ∧
    assembleLine ['B', 'Y', 'T', 'E', ' ', '\'', '\\', '\'', '\''] = some [0x527] := by decide

/-- The count of `IDLE` (log entry 14): a decimal, 0 included, and no hexadecimal. -/
theorem test_assemble_idle_count :
    assembleLine ['I', 'D', 'L', 'E', ' ', '1', '0'] = some (List.replicate 10 0) ∧
    assembleLine ['I', 'D', 'L', 'E', ' ', '0'] = some [] ∧
    assembleLine ['I', 'D', 'L', 'E', ' ', '0', 'x', '1', '0'] = none := by decide

/-! ## Witnesses: the hypotheses of each obligation are met, clause by clause -/

/-- A presented event that ends at the last offset of the buffer. -/
def lastEvent : WritePort 8 := { valid := true, addr := 61, data := 0x69A69A, len := 3 }

/-- A state with that event and one cycle of input. -/
def stIn (r : Regs 8 8) (p : PortIn) : State := { cfg := cfg8, regs := r, wr := lastEvent, buf := [], inputs := [p] }

theorem witness_ResetEdgeClearsEverything :
    overruns cfg8.outLen (stIn (busy .pad2 3 1 2 3 255 61) { rst := true, cmd := 0x561 }).wr = false ∧
    (stIn (busy .pad2 3 1 2 3 255 61) { rst := true, cmd := 0x561 }).inputs = { rst := true, cmd := 0x561 } :: [] := by
  decide

theorem witness_DecodeEncodeInverse :
    (Instr.byteValue 0x2F).wf standardLut true = true ∧ (Instr.byteSkip 0x09).wf standardLut true = true ∧
    (Instr.bytePad 0x3D).wf standardLut true = true ∧ (Instr.byteInvalid 0xFF).wf standardLut true = true ∧
    (Instr.byte 0xFF).wf standardLut false = true ∧ (Instr.nop 0x3FF).wf standardLut true = true := by decide

/-- A table of entries whose value field is all ones in every class. -/
def onesLut (cls : BitVec 2) : Lut := Vector.replicate 256 (cls ++ 63#6)

theorem witness_ClassifyReadsEntry :
    lutRead standardLut 0x2F = 0#2 ++ 63#6 ∧ lutRead (onesLut 1) 0xFF = 1#2 ++ 63#6 ∧
    lutRead (onesLut 2) 0 = 2#2 ++ 63#6 ∧ lutRead (onesLut 3) 0xFF = 3#2 ++ 63#6 := by decide

/-- Both sides of the equivalence occur: `test_constant_table_not_wf` is the other one. -/
theorem witness_WfLutMeansInjective : (tableValues standardLut).count 63 = 1 := by decide

theorem witness_ByteIsTheFormOfItsClass :
    (st (busy .pad2 3 1 2 3 255 61)).regs.phase = .busy ∧ (st (ended .err .pad2 3 5 0 0 .malformedTail)).regs.phase = .err ∧
    (st (resetRegs 8 8)).regs.phase = .idle ∧ (st (ended .done .pad2 2 8 4 0 .none)).regs.phase = .done := by decide

theorem witness_SkipByteAdvancesIndexOnly :
    (st (busy .pad2 3 1 2 3 255 61)).regs.phase = .busy ∧ classify cfg8.lut 0x0D = .skip := by decide

theorem witness_PadByteMovesForward :
    classify cfg8.lut 0x3D = .pad ∧ ∀ d, (st (busy d 1 1 0 0 255 0)).regs.phase = .busy ∧
      (st (busy d 1 1 0 0 255 0)).regs.dstate = d := by
  refine ⟨by decide, fun d => ⟨rfl, rfl⟩⟩

theorem witness_ValueByteAppendsOrRaises :
    classify cfg8.lut 0x2F = .value 63 ∧ classify cfg8.lut 0x41 = .value 0 ∧
    ∀ d n, (st (busy d n 1 2 3 255 253)).regs.phase = .busy ∧ (st (busy d n 1 2 3 255 253)).regs.dstate = d ∧
      (st (busy d n 1 2 3 255 253)).regs.cnt = n := by
  refine ⟨by decide, by decide, fun d n => ⟨rfl, rfl, rfl⟩⟩

theorem witness_InvalidByteRaises :
    (st (busy .pad2 3 1 2 3 255 0)).regs.phase = .busy ∧ classify cfg8.lut 0xFF = .invalid := by decide

theorem witness_ByteOutsideCallIsProtocolError :
    (st (resetRegs 8 8)).regs.phase = .idle ∧ (st (ended .done .pad1 3 8 5 0 .none)).regs.phase = .done ∧
    Instr.byteInvalid 0xFF ∈ [Instr.byte 0xFF, .byteValue 0xFF, .byteSkip 0xFF, .bytePad 0xFF, .byteInvalid 0xFF] := by
  decide

theorem witness_ByteAndFinishIgnoredInErr :
    (st (ended .err .data 1 1 0 1 .invalidByte)).regs.phase = .err ∧
    Instr.finish 0 ∈ [Instr.byte 0, .byteValue 0, .byteSkip 0, .bytePad 0, .byteInvalid 0, .finish 0] := by decide

/-- Every cell of the table, and the other phases. -/
theorem witness_FinishFollowsTable :
    (∀ d n, (st (busy d n 1 2 3 255 255)).regs.phase = .busy ∧ (st (busy d n 1 2 3 255 255)).regs.dstate = d ∧
      (st (busy d n 1 2 3 255 255)).regs.cnt = n) ∧
    (st (ended .err .data 1 1 0 1 .invalidByte)).regs.phase = .err ∧ (st (resetRegs 8 8)).regs.phase = .idle ∧
    (st (ended .done .pad2 2 8 4 0 .none)).regs.phase = .done := by
  refine ⟨fun d n => ⟨rfl, rfl, rfl⟩, rfl, rfl, rfl⟩

theorem witness_StepRunsDecodedCommand :
    overruns cfg8.outLen (stIn (busy .data 3 1 2 3 255 61) { rst := false, cmd := 0x561 }).wr = false ∧
    (stIn (busy .data 3 1 2 3 255 61) { rst := false, cmd := 0x561 }).inputs = { rst := false, cmd := 0x561 } :: [] ∧
    decode cfg8.lut (busyFlag (stIn (busy .data 3 1 2 3 255 61) { rst := false, cmd := 0x561 }).regs.phase) 0x561 =
      .byteValue 0x61 := by decide

theorem witness_PresentedInstructionRuns :
    overruns cfg8.outLen (stIn (busy .data 3 1 2 3 255 61) idleInput).wr = false ∧
    (Instr.byteInvalid 0xFF).wf cfg8.lut (busyFlag (stIn (busy .data 3 1 2 3 255 61) idleInput).regs.phase) = true ∧
    (Instr.byte 0xFF).wf cfg8.lut (busyFlag (st (resetRegs 8 8)).regs.phase) = true := by decide

/-- Also for `EveryCycleAppliesPresentedEvent`. -/
theorem witness_IdleCycleKeepsRegisters :
    overruns cfg8.outLen (st (ended .done .pad1 3 8 5 0 .none)).wr = false ∧
    (st (ended .done .pad1 3 8 5 0 .none)).inputs = [] := by decide

/-- Three lanes at the end of the space of the narrowest `ADDR_W`, the last wrapped to offset 0. -/
def wrapState : State :=
  { cfg := { cfg8 with addrW := 2 }
    regs := resetRegs 8 2
    wr := { valid := true, addr := 2, data := 0x69A69A, len := 3 }
    buf := []
    inputs := [] }

theorem witness_EventWritesItsLanes :
    wrapState.cfg.wf = true ∧ wrapState.wr.valid = true ∧ 3 ≤ wrapState.wr.len.toNat ∧
    (∀ k < wrapState.wr.len.toNat, 1 ≠ (wrapState.wr.addr + BitVec.ofNat wrapState.cfg.addrW k).toNat) := by decide

/-- The buffer's last offset is written; one further is an overrun. -/
theorem witness_OverrunFaultsExactly :
    overruns 64 lastEvent = false ∧ overruns 63 lastEvent = true ∧ lastEvent.valid = true ∧
    63 ≤ (lastEvent.addr + BitVec.ofNat 8 2).toNat := by decide

theorem witness_PackLaneDependence :
    (31#6).extractLsb' 4 2 = (16#6).extractLsb' 4 2 ∧ (63#6).extractLsb' 0 4 = (15#6).extractLsb' 0 4 ∧
    (63#6).extractLsb' 2 4 = (60#6).extractLsb' 2 4 ∧ (63#6).extractLsb' 0 2 = (3#6).extractLsb' 0 2 := by decide

/-- A state inside a call with full counters, the invariant, and a step of it (R56 is not part of the invariant). -/
theorem witness_StepKeepsInvariant :
    (stIn (busy .pad1 3 1 2 3 255 255) { rst := false, cmd := 0x53D }).Inv ∧
    call (step (stIn (busy .pad1 3 1 2 3 255 255) { rst := false, cmd := 0x53D })) =
      some (.busy, .pad2, 3, 0, 255) := by
  refine ⟨⟨?_, ?_, ?_, ?_, ?_, ?_, ?_, ?_, ?_, ?_, ?_, ?_, ?_⟩, ?_⟩ <;> decide

/-- The three ways: reset, `START`, a pad marker. -/
theorem witness_DstateMovesForward :
    call (step (stIn (busy .pad2 2 1 2 3 4 0) { rst := true, cmd := 0x53D })) = some (.idle, .data, 0, 0, 0) ∧
    call (step (stIn (busy .pad2 2 1 2 3 4 0) { rst := false, cmd := 0x400 })) = some (.busy, .data, 0, 0, 0) ∧
    call (step (stIn (busy .pad1 2 1 2 3 3 0) { rst := false, cmd := 0x53D })) = some (.busy, .pad2, 2, 4, 0) := by
  refine ⟨?_, ?_, ?_⟩ <;> decide

/-- The four ways: reset, `START`, `FINISH` with a good tail, an error. -/
theorem witness_PhaseChangesOnlyByRule :
    call (step (stIn (busy .data 0 1 2 3 4 3) { rst := true, cmd := 0 })) = some (.idle, .data, 0, 0, 0) ∧
    call (step (stIn (ended .err .data 1 1 0 1 .invalidByte) { rst := false, cmd := 0x4FF })) =
      some (.busy, .data, 0, 0, 0) ∧
    call (step (stIn (busy .pad1 3 1 2 3 4 0) { rst := false, cmd := 0x600 })) = some (.done, .pad1, 3, 4, 2) ∧
    call (step (stIn (busy .data 0 1 2 3 255 3) { rst := false, cmd := 0x520 })) = some (.err, .data, 0, 255, 3) := by
  refine ⟨?_, ?_, ?_, ?_⟩ <;> decide

/-- The four causes, each from an open call without a record. -/
theorem witness_ErrorCausesAreExact :
    record (exec (.byteInvalid 0) (st (busy .data 0 0 0 0 255 0))) = some (255, .invalidByte, false) ∧
    record (exec (.byteValue 0x41) (st (busy .pad1 0 0 0 0 255 0))) = some (255, .valueAfterPad, false) ∧
    record (exec (.bytePad 0x3D) (st (busy .pad2 0 0 0 0 255 0))) = some (255, .thirdPad, false) ∧
    record (exec (.finish 0xFF) (st (busy .pad2 3 0 0 0 255 0))) = some (0, .malformedTail, false) := by decide

theorem witness_ErrorEntryFrame :
    (st (busy .pad2 3 1 2 3 255 0)).regs.phase ≠ .err ∧
    call (exec (.finish 0) (st (busy .pad2 3 1 2 3 255 0))) = some (.err, .pad2, 3, 255, 0) := by decide

theorem witness_ErrorRecordIsFrozen :
    overruns cfg8.outLen (stIn (ended .err .pad1 1 2 0 2 .valueAfterPad) { rst := false, cmd := 0x7FF }).wr = false ∧
    (stIn (ended .err .pad1 1 2 0 2 .valueAfterPad) { rst := false, cmd := 0x7FF }).regs.phase = .err ∧
    (stIn (ended .err .pad1 1 2 0 2 .valueAfterPad) { rst := false, cmd := 0x7FF }).portIn.rst = false ∧
    isStart (stIn (ended .err .pad1 1 2 0 2 .valueAfterPad) { rst := false, cmd := 0x7FF }).command = false := by decide

/-- Set by `RSVD` in a call, by `FINISH` outside one; cleared by reset. -/
theorem witness_ProtoErrIsSticky :
    record (step (stIn (busy .data 0 0 0 0 0 0) { rst := false, cmd := 0x700 })) = some (0, .none, true) ∧
    record (step (stIn (resetRegs 8 8) { rst := false, cmd := 0x600 })) = some (0, .none, true) ∧
    record (step (stIn { resetRegs 8 8 with protoErr := true } { rst := true, cmd := 0x700 })) = some (0, .none, false) := by
  decide

/-- A byte accepted with `idx` at its last value, and one that ends the call. -/
theorem witness_IndexCountsAcceptedBytes :
    call (exec (.byte 0x41) (st (busy .data 3 1 2 3 255 0))) = some (.busy, .data, 0, 0, 3) ∧
    call (exec (.byte 0x00) (st (busy .data 3 1 2 3 255 0))) = some (.err, .data, 3, 255, 0) := by decide

/-- The last cursor from which a group does not wrap, the first from which it does, and tails at the last offset. -/
theorem witness_CursorFollowsEvents :
    event (exec (.byte 0x41) (st (busy .data 3 0 0 0 3 252))) = some (true, 252, 3, 0) ∧
    event (exec (.byte 0x41) (st (busy .data 3 0 0 0 3 253))) = some (true, 253, 3, 0) ∧
    event (exec (.finish 0) (st (busy .data 2 63 63 0 3 255))) = some (true, 255, 1, 0xFF0000) ∧
    event (exec (.finish 0) (st (busy .data 3 63 63 63 3 255))) = some (true, 255, 2, 0xFFFF00) := by
  refine ⟨?_, ?_, ?_, ?_⟩ <;> decide

theorem witness_FinishByteCount :
    (st (busy .pad2 2 1 2 3 4 0)).regs.phase = .busy ∧
    call (exec (.finish 0) (st (busy .pad2 2 1 2 3 4 0))) = some (.done, .pad2, 2, 4, 1) := by decide

theorem witness_StepDoesOneThing :
    isStart (.finish 0) = false ∧ isStart (.byte 0xFF) = false ∧ (st (busy .pad2 3 1 2 3 5 0)).regs.phase ≠ .err ∧
    (st (ended .err .pad2 3 5 0 0 .malformedTail)).regs.phase = .err := by decide

theorem witness_TrailingBitsUnchecked :
    (31#6).extractLsb' 4 2 = (st (busy .data 2 1 16 0 2 0)).regs.g1.extractLsb' 4 2 ∧
    (63#6).extractLsb' 2 4 = (st (busy .pad1 3 1 2 60 4 0)).regs.g2.extractLsb' 2 4 ∧
    (st (busy .pad1 3 1 2 60 4 0)).regs.cnt = 3 ∧ (st (busy .pad1 3 1 2 60 4 0)).regs.dstate ≠ .pad2 := by decide

/-- All three slots stale, two, one, none. -/
theorem witness_StaleSlotsAreNeverRead :
    agreeButStale (busy .data 0 1 2 3 4 3) (busy .data 0 7 8 9 4 3) ∧
    agreeButStale (busy .data 1 1 2 3 5 3) (busy .data 1 1 8 9 5 3) ∧
    agreeButStale (busy .pad2 2 1 2 3 6 3) (busy .pad2 2 1 2 9 6 3) ∧
    agreeButStale (busy .data 3 1 2 3 7 3) (busy .data 3 1 2 3 7 3) := by
  refine ⟨?_, ?_, ?_, ?_⟩ <;> exact ⟨rfl, by decide, by decide, by decide⟩

theorem witness_IndexDecidesNothingElse :
    agreeButIndex (ended .err .data 1 1 0 1 .invalidByte) (ended .err .data 1 255 0 255 .invalidByte) := rfl

/-- The last index and cursor that a full group may start from without wrapping. -/
theorem witness_CallKeepsItsShape :
    (st (busy .data 3 1 2 3 254 183)).callShape ∧ (254#8).toNat + 1 < 2 ^ 8 ∧
    (st (busy .data 0 1 2 3 254 189)).callShape ∧ (252#8).toNat + 3 < 2 ^ 8 := by
  refine ⟨fun _ => ?_, by decide, fun _ => ?_, by decide⟩ <;> decide

/-- `aa` about to be decoded, with the narrowest counters and the shortest buffer the duties allow. -/
def callState : State :=
  { cfg := { idxW := 2, addrW := 2, lut := standardLut, outLen := 3 }
    regs := resetRegs 2 2
    wr := idlePort 2
    buf := []
    inputs := decodeCall [0x61, 0x61] ++ [] }

/-- Also for `DecodeRefinesSource`, and, with the second port, for `DecodeForgetsHistory`. -/
theorem witness_CallStaysInsideEstimate :
    Duties callState.cfg [0x61#8, 0x61#8].length ∧ overruns callState.cfg.outLen callState.wr = false ∧
    overruns callState.cfg.outLen { valid := true, addr := (0 : BitVec 2), data := 0xFFFFFF, len := 3 } = false ∧
    callState.inputs = decodeCall [0x61, 0x61] ++ [] ∧ 3 ≤ [0x61#8, 0x61#8].length + 1 := by
  refine ⟨⟨?_, ?_, ?_⟩, ?_, ?_, ?_, ?_⟩ <;> decide

/-- The words of the call (R86). -/
theorem test_decode_call_words : decodeCall [0x61, 0x61] =
    [{ rst := false, cmd := 0x400 }, { rst := false, cmd := 0x561 }, { rst := false, cmd := 0x561 },
      { rst := false, cmd := 0x600 }] := by decide

/-- The source's outcomes: `aGVsbA==` (E2), a scan error (E9) and a malformed tail (E5). -/
theorem witness_DecodeRefinesSource :
    sourceDecode standardLut [0x61, 0x47, 0x56, 0x73, 0x62, 0x41, 0x3D, 0x3D] = .ok [0x68, 0x65, 0x6C, 0x6C] ∧
    sourceDecode standardLut [0x61, 0x3D, 0x56, 0x73, 0x62, 0x41, 0x3D, 0x3D] = .scanError 2 ∧
    sourceDecode standardLut [0x61] = .malformedTail := by decide

end Sys2Proof.Tests
end

