-- ==== Sys2Proof/Proofs/State.lean ====
section
/-! What a command does to `proto_err` and to `idx`, read off its effect (`Does`), and what the outputs show of the registers. -/

namespace Sys2Proof.Machine

variable {iw aw : Nat} {lut : Lut} {i : Instr} {r : Regs iw aw} {e : Regs iw aw × Option (WriteEvent aw)}

/-- R29: the effects that touch `proto_err` touch nothing else. -/
theorem Does.protoErr_kept_or_protocolError (h : Does lut i r e) :
    e.1.protoErr = r.protoErr ∨ e = protocolError r := by
  cases h with
  | protocol => exact .inr rfl
  | _ => exact .inl rfl

/-- R29, R108, R109, R136: the commands that leave `proto_err` set. -/
theorem Does.protoErr_iff (h : Does lut i r e) :
    e.1.protoErr = true ↔ r.protoErr = true ∨ isRsvd i = true ∨
      (r.phase = .idle ∨ r.phase = .done) ∧ (isFinish i = true ∨ (byteClass lut i).isSome = true) := by
  cases h with
  | nothing _ hr h =>
    rcases h with ⟨hc, hf⟩ | ⟨hp, _⟩
    · simp [hr, hc, hf]
    · simp [hr, hp]
  | protocol _ h =>
    rcases h with ⟨hr, _⟩ | ⟨_, hp, hb⟩
    · simp [hr]
    · simp [hp, hb]
  | opens _ hr hf hc => simp [hr, hf, hc]
  | skips _ hr _ hp | pads _ hr _ hp | fills _ hr _ hp | emits _ hr _ hp | raises _ hr _ hp
  | rejects _ hr _ _ hp | finishes0 _ hr _ _ hp | finishes2 _ hr _ _ hp | finishes3 _ hr _ _ hp => simp [hr, hp]

/-- R25, R113, R157: `START` clears `idx`, an accepted byte of an open call advances it, and all else keeps it. -/
theorem Does.idx_cases (h : Does lut i r e) :
    (isStart i = true ∧ e.1.idx = 0 ∧ byteClass lut i = none) ∨
    (isStart i = false ∧ e.1.idx = r.idx + 1 ∧
      r.phase = .busy ∧ (byteClass lut i).isSome = true ∧ e.1.phase = .busy) ∨
    (isStart i = false ∧ e.1.idx = r.idx ∧
      (r.phase ≠ .busy ∨ byteClass lut i = none ∨ e.1.phase ≠ .busy)) := by
  cases h with
  | opens hs _ _ hc => exact .inl ⟨hs, rfl, hc⟩
  | skips hs _ _ hp hc | pads hs _ _ hp hc | fills hs _ _ hp _ hc | emits hs _ _ hp _ hc =>
    exact .inr (.inl ⟨hs, rfl, hp, by simp [hc], hp⟩)
  | nothing hs _ h =>
    refine .inr (.inr ⟨hs, rfl, ?_⟩)
    rcases h with ⟨hc, _⟩ | ⟨hp, _⟩
    · exact .inr (.inl hc)
    · exact .inl (by simp [hp])
  | protocol hs h =>
    refine .inr (.inr ⟨hs, rfl, ?_⟩)
    rcases h with ⟨_, hc, _⟩ | ⟨_, hp, _⟩
    · exact .inr (.inl hc)
    · exact .inl (by rcases hp with hp | hp <;> simp [hp])
  | raises hs => exact .inr (.inr ⟨hs, rfl, .inr (.inr nofun)⟩)
  | rejects hs _ _ hc | finishes0 hs _ _ hc | finishes2 hs _ _ hc | finishes3 hs _ _ hc =>
    exact .inr (.inr ⟨hs, rfl, .inr (.inl hc)⟩)

@[simp] theorem busyFlag_iff (p : Phase) : busyFlag p = true ↔ p = .busy := decide_eq_true_iff
@[simp] theorem doneFlag_iff (p : Phase) : doneFlag p = true ↔ p = .done := decide_eq_true_iff
@[simp] theorem errFlag_iff (p : Phase) : errFlag p = true ↔ p = .err := decide_eq_true_iff

/-- R36: the three flags exclude each other. -/
theorem statusFlags_sum_le_one (p : Phase) :
    (busyFlag p).toNat + (doneFlag p).toNat + (errFlag p).toNat ≤ 1 := by
  cases p <;> decide

/-- R36: `Ok` is read in `DONE` only, with the cursor as its length. -/
theorem callResult_eq_ok_iff (s : State) (k : Nat) :
    s.callResult = some (.ok k) ↔ s.regs.phase = .done ∧ k = s.regs.cursor.toNat := by
  unfold State.callResult
  cases s.regs.phase <;> simp [eq_comm]

/-- R36: `InvalidInput` is read in `ERR` only, with the recorded offset. -/
theorem callResult_eq_invalidInput_iff (s : State) (o : Nat) :
    s.callResult = some (.invalidInput o) ↔ s.regs.phase = .err ∧ o = s.regs.errOffset.toNat := by
  unfold State.callResult
  cases s.regs.phase <;> simp [eq_comm]

/-- Settles O41: a cycle is a reset or a command's effect, and an effect on `proto_err` is `protocolError` whole. -/
theorem protoErrIsSticky : Obligations.ProtoErrIsSticky := by
  intro s t hstep
  rcases step_next hstep with ⟨hr, rfl⟩ | ⟨hr, e, he, rfl⟩
  · simp [hr, resetRegs]
  · refine ⟨by simpa [hr] using he.protoErr_iff, fun hne _ => ?_⟩
    rcases he.protoErr_kept_or_protocolError with hk | rfl
    · exact absurd hk hne
    · rfl

/-- Settles O42, by the three cases of `Does.idx_cases`. -/
theorem indexCountsAcceptedBytes : Obligations.IndexCountsAcceptedBytes := by
  intro i s
  obtain ⟨e, he, hx⟩ := exec_does i s
  refine ⟨e.1, present e.2, hx, ?_⟩
  rcases he.idx_cases with ⟨hs, hi, hc⟩ | ⟨hs, hi, hp, hc, hb⟩ | ⟨hs, hi, hk⟩
  · simp [hs, hi, hc]
  · simp [hs, hi, hp, hb, Option.isSome_iff_ne_none.1 hc]
  · refine ⟨by simp [hs], fun hp hc hb => ?_, fun _ _ => hi⟩
    simp [hp, hb, Option.isSome_iff_ne_none.1 hc] at hk

/-- Settles O30: the outputs are the registers or their decodings, field by field. -/
theorem outputsDecodeRegisters : Obligations.OutputsDecodeRegisters := by
  intro s
  refine ⟨busyFlag_iff _, doneFlag_iff _, errFlag_iff _, rfl, rfl, rfl, rfl, rfl, rfl, rfl, rfl, rfl, rfl, rfl,
    rfl, rfl, rfl, rfl, rfl, rfl, rfl, rfl, statusFlags_sum_le_one _, fun k => ?_, fun o => ?_, fun _ _ _ _ => rfl⟩
  · exact (callResult_eq_ok_iff s k).trans (and_congr_left' (doneFlag_iff _).symm)
  · exact (callResult_eq_invalidInput_iff s o).trans (and_congr_left' (errFlag_iff _).symm)

end Sys2Proof.Machine
end

