-- ==== Sys2Proof/Proofs/Memory.lean ====
section
/-! R52: an instruction and the host's output buffer. -/

namespace Sys2Proof.Machine

/-- R52: over any buffer an instruction has the effect it has over the state's own, which speaks of the table and the registers only,
and the buffer stays. -/
theorem exec_with_buf (i : Instr) (s : State) (m : Memory) :
    exec i { s with buf := m } =
      .next { s with regs := (effect s.cfg.lut i s.regs).1, wr := present (effect s.cfg.lut i s.regs).2, buf := m } :=
  exec_eq_commit i { s with buf := m }

/-- Settles O27: the effect that `exec_with_buf` commits is one and the same for every buffer. -/
theorem execLeavesBufferAlone : Obligations.ExecLeavesBufferAlone := by
  intro i s
  exact ⟨(effect s.cfg.lut i s.regs).1, present (effect s.cfg.lut i s.regs).2,
    fun m => ⟨exec_with_buf i s m, fun _ => rfl⟩⟩

end Sys2Proof.Machine
end

