-- ==== Sys2Proof/Proofs/Encoding.lean ====
section
/-! R74, R75: a table entry put together from its class code and value field, and the class it reads as. -/

namespace Sys2Proof.Machine

@[simp] theorem entryCls_append (c : BitVec 2) (v : Sextet) : entryCls (c ++ v) = c :=
  (extract_high c v 6 2 (by decide)).trans BitVec.extractLsb'_eq_self

@[simp] theorem entryVal_append (c : BitVec 2) (v : Sextet) : entryVal (c ++ v) = v :=
  extract_low c v

/-- R75, R76: the class code alone selects the class, and only `Value` reads the value field. -/
theorem classifyEntry_append (c : BitVec 2) (v : Sextet) :
    classifyEntry (c ++ v) =
      if c = 0#2 then .value v else if c = 1#2 then .skip else if c = 2#2 then .pad else .invalid := by
  simp only [classifyEntry, entryCls_append, entryVal_append]

/-- R90: the class of a byte's entry is the byte's class, and it selects the form of `BYTE`. -/
theorem classify_and_selectForm_of_entry {lut : Lut} {b e : Byte} {k : Classification}
    (hread : lutRead lut b = e) (hclass : classifyEntry e = k) :
    classify lut b = k ∧ selectForm lut (.byte b) = formOf b k := by
  have hk : classify lut b = k := by rw [classify, hread, hclass]
  exact ⟨hk, congrArg (formOf b) hk⟩

/-- Settles O6: each of the four class codes is one case of `classifyEntry_append`. -/
theorem classifyReadsEntry : Obligations.ClassifyReadsEntry := by
  intro lut b v
  refine ⟨fun h => ?value, fun h => ?skip, fun h => ?pad, fun h => ?invalid⟩
  case value => exact classify_and_selectForm_of_entry h (classifyEntry_append 0#2 v)
  case skip => exact classify_and_selectForm_of_entry h (classifyEntry_append 1#2 v)
  case pad => exact classify_and_selectForm_of_entry h (classifyEntry_append 2#2 v)
  case invalid => exact classify_and_selectForm_of_entry h (classifyEntry_append 3#2 v)

end Sys2Proof.Machine
end

