-- ==== Sys2Proof/Proofs/Alphabet.lean ====
section
/-! R94, R95: the Standard table as a function of the byte, its classes, and its values put in order. -/

namespace Sys2Proof.Machine

/-- The table of R94, row by row: the entry of a byte by the range it lies in. -/
def standardEntry (b : Byte) : Byte :=
  if 0x41 ≤ b ∧ b ≤ 0x5A then b - 0x41
  else if 0x61 ≤ b ∧ b ≤ 0x7A then b - 0x47
  else if 0x30 ≤ b ∧ b ≤ 0x39 then b + 0x04
  else if b = 0x2B then 0x3E
  else if b = 0x2F then 0x3F
  else if b = 0x3D then 0x80
  else if b = 0x09 ∨ b = 0x0A ∨ b = 0x0D then 0x40
  else 0xC0

/-- R94: no range reaches the bytes beyond ASCII. -/
theorem standardEntry_of_ge {b : Byte} (h : 0x80 ≤ b) : standardEntry b = 0xC0 := by
  unfold standardEntry
  repeat rw [if_neg (by bv_omega)]

/-- The part of R94's table for the `len` bytes from `start` on. -/
def standardRange (start len : Nat) : List Byte :=
  (List.range' start len).map fun n => standardEntry (BitVec.ofNat 8 n)

theorem standardRows03_eq : standardRows03 = standardRange 0 64 := by decide

theorem standardRows47_eq : standardRows47 = standardRange 64 64 := by decide

theorem standardRange_beyond_ascii : standardRange 128 128 = List.replicate 128 0xC0 := by
  refine List.eq_replicate_iff.2 ⟨by simp [standardRange], fun e he => ?_⟩
  obtain ⟨n, hn, rfl⟩ := List.mem_map.1 he
  have := List.mem_range'_1.1 hn
  exact standardEntry_of_ge (by bv_omega)

theorem standardRange_append (start m n : Nat) :
    standardRange start m ++ standardRange (start + m) n = standardRange start (m + n) := by
  rw [standardRange, standardRange, ← List.map_append, List.range'_append_1, standardRange]

/-- The grid of R94 and its table of ranges agree on all 256 bytes. -/
theorem standardEntries_eq : standardEntries = standardRange 0 256 := by
  rw [standardEntries, standardRows03_eq, standardRows47_eq, ← standardRange_beyond_ascii]
  exact (congrArg (· ++ _) (standardRange_append 0 64 64)).trans (standardRange_append 0 128 128)

@[simp] theorem standardLut_toList : standardLut.toList = standardEntries := rfl

theorem lutRead_standardLut (b : Byte) : lutRead standardLut b = standardEntry b := by
  have hread : standardLut.toList[b.toNat]? = some (lutRead standardLut b) := by
    simp [-standardLut_toList, lutRead]
  have hrange : (standardRange 0 256)[b.toNat]? = some (standardEntry b) := by
    simp [standardRange, b.isLt]
  rw [standardLut_toList, standardEntries_eq, hrange] at hread
  exact (Option.some.inj hread).symm

/-- Settles O7: the default table is the grid, read by `lutRead_standardLut`. -/
theorem standardTableByRange : Obligations.StandardTableByRange :=
  ⟨rfl, lutRead_standardLut⟩

/-- R75: an entry below `0x40` has class code 0. -/
theorem classifyEntry_of_lt {e : Byte} (h : e < 0x40) : classifyEntry e = .value (entryVal e) := by
  have hcls : entryCls e = 0#2 := by
    apply BitVec.eq_of_toNat_eq
    simp only [entryCls, BitVec.extractLsb'_toNat, Nat.shiftRight_eq_div_pow]
    bv_omega
  rw [classifyEntry, if_pos hcls]

/-- R94: outside the pad and the skip bytes an entry is a value or `0xC0`. -/
theorem standardEntry_lt_or_eq {b : Byte} (hpad : b ≠ 0x3D) (hskip : ¬ (b = 0x09 ∨ b = 0x0A ∨ b = 0x0D)) :
    standardEntry b < 0x40 ∨ standardEntry b = 0xC0 := by
  rw [standardEntry, if_neg hpad, if_neg hskip]
  split_ifs
  case neg => exact .inr rfl
  all_goals exact .inl (by bv_omega)

/-- R92, R94: which byte has which class. -/
theorem classify_standardLut (b : Byte) : classify standardLut b =
    if b = 0x3D then .pad
    else if b = 0x09 ∨ b = 0x0A ∨ b = 0x0D then .skip
    else if standardEntry b < 0x40 then .value (entryVal (standardEntry b))
    else .invalid := by
  rw [classify, lutRead_standardLut]
  split_ifs with hpad hskip hval
  · subst hpad; decide
  · rcases hskip with rfl | rfl | rfl <;> decide
  · exact classifyEntry_of_lt hval
  · rw [(standardEntry_lt_or_eq hpad hskip).resolve_left hval]; decide

theorem classify_standardLut_eq_skip_iff (b : Byte) :
    classify standardLut b = .skip ↔ b = 0x09 ∨ b = 0x0A ∨ b = 0x0D := by
  rw [classify_standardLut]
  split_ifs with hpad hskip hval
  · subst hpad; decide
  all_goals simpa using hskip

theorem classify_standardLut_eq_pad_iff (b : Byte) : classify standardLut b = .pad ↔ b = 0x3D := by
  rw [classify_standardLut]
  split_ifs with hpad hskip hval <;> simpa using hpad

/-- R95: how many bytes of each class the grid holds, added up over its three parts. -/
theorem length_filter_standardLut (k : Classification) :
    (standardLut.toList.filter fun e => classifyEntry e = k).length =
      (standardRows03.filter fun e => classifyEntry e = k).length +
      (standardRows47.filter fun e => classifyEntry e = k).length +
      if k = .invalid then 128 else 0 := by
  have hinvalid : classifyEntry 0xC0 = .invalid := by decide
  rw [standardLut_toList, standardEntries, List.filter_append, List.filter_append, List.length_append,
    List.length_append, List.filter_replicate, hinvalid]
  by_cases hk : k = .invalid
  · simp [hk]
  · simp [hk, Ne.symm hk]

/-- The 64 group values in order. -/
def sextets : List Sextet := (List.range 64).map (BitVec.ofNat 6)

theorem count_sextets {v : Nat} (hv : v < 64) : sextets.count (BitVec.ofNat 6 v) = 1 := by
  refine List.count_eq_one_of_mem ?nodup (List.mem_map_of_mem (List.mem_range.2 hv))
  refine List.Nodup.map_on (fun m hm n hn hmn => ?_) List.nodup_range
  rw [List.mem_range] at hm hn
  bv_omega

/-- R32: a table whose values are the 64 group values in some order passes `WF_LUT`. -/
theorem wfLut_of_perm {lut : Lut} (h : (tableValues lut).Perm sextets) : wfLut lut = true := by
  refine List.all_eq_true.2 fun v hv => ?_
  rw [h.count_eq, count_sextets (List.mem_range.1 hv)]
  rfl

/-- The value of an entry of class `Value`. -/
def entryValue? (e : Byte) : Option Sextet :=
  match classifyEntry e with
  | .value v => some v
  | _ => none

theorem tableValues_eq_filterMap (lut : Lut) : tableValues lut = lut.toList.filterMap entryValue? := rfl

theorem values_standardRows03 :
    standardRows03.filterMap entryValue? = sextets.drop 62 ++ (sextets.take 62).drop 52 := by decide

theorem values_standardRows47 : standardRows47.filterMap entryValue? = sextets.take 52 := by decide

/-- R94: in byte order come the values of `+` and `/`, of the digits, then of the letters. -/
theorem tableValues_standardLut : tableValues standardLut =
    (sextets.drop 62 ++ (sextets.take 62).drop 52) ++ sextets.take 52 := by
  have hinvalid : entryValue? 0xC0 = none := by decide
  rw [tableValues_eq_filterMap, standardLut_toList, standardEntries, List.filterMap_append, List.filterMap_append,
    values_standardRows03, values_standardRows47, List.filterMap_replicate_of_none hinvalid, List.append_nil]

/-- R95: the three blocks in the opposite order are the group values in order. -/
theorem tableValues_standardLut_perm : (tableValues standardLut).Perm sextets := by
  rw [tableValues_standardLut]
  have hsorted : sextets.take 52 ++ ((sextets.take 62).drop 52 ++ sextets.drop 62) = sextets := by decide
  exact (List.perm_append_comm.trans (List.perm_append_comm.append_left _)).trans (.of_eq hsorted)

/-- Settles O8: the counts add up over the grid's three parts, the byte sets are read off `classify_standardLut`, and
the values are a permutation of the 64. -/
theorem standardTableClassCounts : Obligations.StandardTableClassCounts := by
  refine ⟨tableValues_standardLut_perm.length_eq.trans (by decide), ?skip, ?pad, ?invalid,
    classify_standardLut_eq_skip_iff, classify_standardLut_eq_pad_iff, wfLut_of_perm tableValues_standardLut_perm⟩
  case skip => exact (length_filter_standardLut .skip).trans (by decide)
  case pad => exact (length_filter_standardLut .pad).trans (by decide)
  case invalid => exact (length_filter_standardLut .invalid).trans (by decide)

end Sys2Proof.Machine
end

/-! The commands of the decode FSM (R101 to R114): a command that presents a byte acts by its byte's class in an open call, and by
the phase alone outside one; and what a command's effect (`Does`) can change of `dstate`, `cnt`, the event and the error phase. -/

namespace Sys2Proof.Machine

section
variable {iw aw : Nat} {lut : Lut} {i : Instr} {r : Regs iw aw}

/-! ## The case on the phase -/

theorem phaseCase_err {act : Regs iw aw → Regs iw aw × Option (WriteEvent aw)} (h : r.phase = .err) :
    phaseCase act r = noEffect r := by
  simp [phaseCase, h]

theorem phaseCase_no_call {act : Regs iw aw → Regs iw aw × Option (WriteEvent aw)}
    (h : r.phase = .idle ∨ r.phase = .done) : phaseCase act r = protocolError r := by
  rcases h with h | h <;> simp [phaseCase, h]

/-- R103: whatever form presents the byte, its class selects the effect. -/
theorem effect_of_byteClass {c : Classification} (h : byteClass lut i = some c) :
    effect lut i r = phaseCase (classifiedByte c) r := by
  cases i with
  | byte | byteValue | byteSkip | bytePad | byteInvalid => cases h; rfl
  | nop | start | finish | rsvd => cases h

/-- R103, R130: the commands that present a byte and `FINISH` act in an open call only. -/
theorem effect_eq_phaseCase (h : isFinish i = true ∨ (byteClass lut i).isSome = true) :
    ∃ act, effect lut i r = phaseCase act r := by
  rcases h with h | h
  · cases i with
    | finish => exact ⟨finalize, rfl⟩
    | _ => cases h
  · obtain ⟨c, hc⟩ := Option.isSome_iff_exists.1 h
    exact ⟨classifiedByte c, effect_of_byteClass hc⟩

/-! ## The class of a byte in its two presentations -/

/-- A form, and the common `BYTE` of the form's class, present a byte of that class. -/
theorem byteClass_of_form_or_byte {f : Instr} {b : Byte} {c : Classification} (hf : byteClass lut f = some c)
    (h : i = f ∨ i = .byte b ∧ classify lut b = c) : byteClass lut i = some c := by
  rcases h with rfl | ⟨rfl, hc⟩
  · exact hf
  · exact congrArg some hc

theorem byteClass_byteValue {b : Byte} {v : Sextet} (h : classify lut b = .value v) :
    byteClass lut (.byteValue b) = some (.value v) := by
  rw [classify_value h]; rfl

theorem isFinish_or_byteClass_isSome {b : Byte}
    (h : i ∈ [Instr.byte b, .byteValue b, .byteSkip b, .bytePad b, .byteInvalid b, .finish b]) :
    isFinish i = true ∨ (byteClass lut i).isSome = true := by
  simp only [List.mem_cons, List.not_mem_nil, or_false] at h
  rcases h with rfl | rfl | rfl | rfl | rfl | rfl
  case inr.inr.inr.inr.inr => exact .inl rfl
  all_goals exact .inr rfl

/-! ## The forms of `BYTE`, by `dstate` -/

theorem padByte_data (h : r.dstate = .data) :
    padByte r = ({ r with dstate := .pad1, idx := r.idx + 1 }, none) := by
  simp [padByte, h, consumeByte]

theorem padByte_pad1 (h : r.dstate = .pad1) :
    padByte r = ({ r with dstate := .pad2, idx := r.idx + 1 }, none) := by
  simp [padByte, h, consumeByte]

theorem padByte_pad2 (h : r.dstate = .pad2) : padByte r = raiseInvalidInput r r.idx .thirdPad := by
  simp [padByte, h]

theorem valueByte_data (v : Sextet) (h : r.dstate = .data) : valueByte v r = groupAppend (consumeByte r) v := by
  simp [valueByte, h]

theorem valueByte_not_data (v : Sextet) (h : r.dstate ≠ .data) :
    valueByte v r = raiseInvalidInput r r.idx .valueAfterPad := by
  cases hd : r.dstate with
  | data => exact absurd hd h
  | pad1 | pad2 => simp [valueByte, hd]

/-! ## `GROUP_APPEND`, by `cnt` (R140) -/

theorem groupAppend_zero (v : Sextet) (h : r.cnt = 0) :
    groupAppend r v = ({ r with g0 := v, cnt := 1 }, none) := by
  simp [groupAppend, setSlot, h]

theorem groupAppend_one (v : Sextet) (h : r.cnt = 1) :
    groupAppend r v = ({ r with g1 := v, cnt := 2 }, none) := by
  simp [groupAppend, setSlot, h]

theorem groupAppend_two (v : Sextet) (h : r.cnt = 2) :
    groupAppend r v = ({ r with g2 := v, cnt := 3 }, none) := by
  simp [groupAppend, setSlot, h]

theorem groupAppend_three (v : Sextet) (h : r.cnt = 3) : groupAppend r v = emitFull r r.g0 r.g1 r.g2 v := by
  simp [groupAppend, h]

/-- R55, R144: a full group on the port is its four values side by side. -/
theorem present_pack (addr : BitVec aw) (a b c d : Sextet) :
    present (some { addr := addr, bytes := pack a b c d }) =
      { valid := true, addr := addr, len := 3, data := a ++ b ++ c ++ d } := by
  rw [← packWord_append, ← lanesOf_pack]; rfl

end

/-! ## Commands at a state -/

section
variable {s : State} {i : Instr}

/-- In an open call a byte has the effect of its class. -/
theorem exec_byteClass {c : Classification} (hp : s.regs.phase = .busy) (hc : byteClass s.cfg.lut i = some c) :
    exec i s = .next (s.after (classifiedByte c s.regs).1 (present (classifiedByte c s.regs).2)) := by
  rw [exec_eq_commit, effect_of_byteClass hc, phaseCase_busy hp]; rfl

/-- R110. -/
theorem exec_in_err (hp : s.regs.phase = .err)
    (h : isFinish i = true ∨ (byteClass s.cfg.lut i).isSome = true) :
    exec i s = .next (s.after s.regs (idlePort s.cfg.addrW)) := by
  obtain ⟨act, ha⟩ := effect_eq_phaseCase (r := s.regs) h
  rw [exec_eq_commit, ha, phaseCase_err hp]; rfl

/-- R109, R136. -/
theorem exec_outside_call (hp : s.regs.phase = .idle ∨ s.regs.phase = .done)
    (h : isFinish i = true ∨ (byteClass s.cfg.lut i).isSome = true) :
    exec i s = .next (s.after { s.regs with protoErr := true } (idlePort s.cfg.addrW)) := by
  obtain ⟨act, ha⟩ := effect_eq_phaseCase (r := s.regs) h
  rw [exec_eq_commit, ha, phaseCase_no_call hp]; rfl

end

/-! ## What an effect can change -/

section
variable {iw aw : Nat} {lut : Lut} {i : Instr} {r : Regs iw aw} {e : Regs iw aw × Option (WriteEvent aw)}

/-- R111: the effects that write `dstate`. -/
theorem Does.dstate_cases (h : Does lut i r e) :
    e.1.dstate = r.dstate ∨
    (isStart i = true ∧ e.1.dstate = .data) ∨
    (r.phase = .busy ∧ byteClass lut i = some .pad ∧
      (r.dstate = .data ∧ e.1.dstate = .pad1 ∨ r.dstate = .pad1 ∧ e.1.dstate = .pad2)) := by
  cases h with
  | opens hs => exact .inr (.inl ⟨hs, rfl⟩)
  | pads _ _ _ hp hc _ hd => exact .inr (.inr ⟨hp, hc, hd⟩)
  | _ => exact .inl rfl

/-- R114: an effect but `START`'s changes neither `dstate` nor `cnt` and has no event (an error is of this kind), or is a
transition of an open call, or an append or tail of one. -/
theorem Does.quiet_or_transition_or_append (h : Does lut i r e) (hs : isStart i = false) :
    (e.1.dstate = r.dstate ∧ e.1.cnt = r.cnt ∧ e.2 = none ∧ (r.phase = .err → e.1.phase = .err)) ∨
    (e.1.cnt = r.cnt ∧ e.2 = none ∧ r.phase = .busy ∧ e.1.phase ≠ .err) ∨
    (e.1.dstate = r.dstate ∧ r.phase = .busy ∧ e.1.phase ≠ .err) := by
  cases h with
  | opens hs' => exact absurd (hs.symm.trans hs') nofun
  | nothing | protocol => exact .inl ⟨rfl, rfl, rfl, id⟩
  | raises | rejects => exact .inl ⟨rfl, rfl, rfl, fun _ => rfl⟩
  | skips _ _ _ hp | pads _ _ _ hp => exact .inr (.inl ⟨rfl, rfl, hp, by simp [hp]⟩)
  | fills _ _ _ hp | emits _ _ _ hp => exact .inr (.inr ⟨rfl, hp, by simp [hp]⟩)
  | finishes0 _ _ _ _ hp | finishes2 _ _ _ _ hp | finishes3 _ _ _ _ hp =>
    exact .inr (.inr ⟨rfl, hp, nofun⟩)

end

/-! ## The obligations -/

/-- Settles O14: in an open call `formOf_effect` makes the two effects one; outside one the phase decides. -/
theorem byteIsTheFormOfItsClass : Obligations.ByteIsTheFormOfItsClass := by
  intro s b
  refine ⟨fun _ => ?_, fun hp => exec_in_err hp (.inr rfl), fun hp => exec_outside_call hp (.inr rfl)⟩
  rw [exec_eq_commit, exec_eq_commit, formOf_effect]

/-- Settles O15: `exec_byteClass` at class `Skip`. -/
theorem skipByteAdvancesIndexOnly : Obligations.SkipByteAdvancesIndexOnly := by
  intro s b i hp hi
  exact exec_byteClass hp (byteClass_of_form_or_byte (f := .byteSkip b) rfl hi)

/-- Settles O16: `exec_byteClass` at class `Pad`, and `padByte` in each `dstate`. -/
theorem padByteMovesForward : Obligations.PadByteMovesForward := by
  intro s b i hp hi
  have hexec := exec_byteClass hp (byteClass_of_form_or_byte (f := .bytePad b) rfl hi)
  refine ⟨fun hd => ?data, fun hd => ?pad1, fun hd => ?pad2⟩ <;> rw [hexec, classifiedByte]
  case data => rw [padByte_data hd]; rfl
  case pad1 => rw [padByte_pad1 hd]; rfl
  case pad2 => rw [padByte_pad2 hd]; rfl

/-- Settles O17: `exec_byteClass` at class `Value`; in `Data` the group is appended to as `cnt` says, and in the other states the
byte raises. -/
theorem valueByteAppendsOrRaises : Obligations.ValueByteAppendsOrRaises := by
  intro s b v i hp hv hi
  have hexec := exec_byteClass hp
    (byteClass_of_form_or_byte (byteClass_byteValue hv) (hi.imp_right fun h => ⟨h, hv⟩))
  refine ⟨fun hd hn => ?zero, fun hd hn => ?one, fun hd hn => ?two, fun hd hn => ?three, fun hd => ?padded⟩ <;>
    rw [hexec, classifiedByte]
  case zero => rw [valueByte_data v hd, groupAppend_zero (r := consumeByte s.regs) v hn]; rfl
  case one => rw [valueByte_data v hd, groupAppend_one (r := consumeByte s.regs) v hn]; rfl
  case two => rw [valueByte_data v hd, groupAppend_two (r := consumeByte s.regs) v hn]; rfl
  case three => rw [valueByte_data v hd, groupAppend_three (r := consumeByte s.regs) v hn, ← present_pack]; rfl
  case padded => rw [valueByte_not_data v hd]; rfl

/-- Settles O18: `exec_byteClass` at class `Invalid`. -/
theorem invalidByteRaises : Obligations.InvalidByteRaises := by
  intro s b i hp hi
  exact exec_byteClass hp (byteClass_of_form_or_byte (f := .byteInvalid b) rfl hi)

/-- Settles O20: `exec_outside_call` for the commands that present a byte. -/
theorem byteOutsideCallIsProtocolError : Obligations.ByteOutsideCallIsProtocolError := by
  intro s b i hp hi
  exact exec_outside_call hp (isFinish_or_byteClass_isSome (List.mem_append_left [Instr.finish b] hi))

/-- Settles O21: `exec_in_err` for the commands that present a byte and `FINISH`. -/
theorem byteAndFinishIgnoredInErr : Obligations.ByteAndFinishIgnoredInErr := by
  intro s b i hp hi
  exact exec_in_err hp (isFinish_or_byteClass_isSome hi)

/-- Settles O36: a cycle is a reset or a command's effect, and `Does.dstate_cases` says which effects write `dstate`. -/
theorem dstateMovesForward : Obligations.DstateMovesForward := by
  intro s t hstep hne
  rcases step_next hstep with ⟨hr, rfl⟩ | ⟨hr, e, he, rfl⟩
  · exact .inl ⟨hr, rfl⟩
  · rcases he.dstate_cases with hk | ⟨hs, hd⟩ | ⟨hp, hc, hd⟩
    · exact absurd hk hne
    · exact .inr (.inl ⟨hr, hs, hd⟩)
    · exact .inr (.inr ⟨hr, hp, hc, hd⟩)

/-- Settles O45, by the three kinds of effect of `Does.quiet_or_transition_or_append`. -/
theorem stepDoesOneThing : Obligations.StepDoesOneThing := by
  intro i s hs
  obtain ⟨e, he, hx⟩ := exec_does i s
  refine ⟨e.1, present e.2, hx, ?_⟩
  rcases he.quiet_or_transition_or_append hs with ⟨hd, hc, hw, hp⟩ | ⟨hc, hw, hb, hp⟩ | ⟨hd, hb, hp⟩
  · simpa [hd, hc, hw] using hp
  · simp [hc, hw, hb, hp]
  · simp [hd, hb, hp]

/-- Settles O12: the effect of `NOP` is `noEffect`. -/
theorem nopHasNoEffect : Obligations.NopHasNoEffect := fun s x => exec_eq_commit (.nop x) s

/-- Settles O13: the effect of `START` is `openCall`, and its flags are those of `BUSY`. -/
theorem startOpensCleanCall : Obligations.StartOpensCleanCall := fun s x =>
  ⟨_, rfl, exec_eq_commit (.start x) s, rfl, rfl, rfl⟩

/-- Settles O19: the effect of `RSVD` is `protocolError`. -/
theorem rsvdSetsProtoErrOnly : Obligations.RsvdSetsProtoErrOnly := fun s x => exec_eq_commit (.rsvd x) s

end Sys2Proof.Machine

/-! `FINISH` (R130 to R138): each cell of the finalization table (R131), and the tail of a call as it stands on the port, written by
the values it comes from. -/

namespace Sys2Proof.Machine

/-! ## The tail on the port (R55, R133, R145) -/

/-- A slice that begins inside the lower word and ends where the upper word does. -/
theorem extract_across {n m : Nat} (x : BitVec n) (y : BitVec m) (k l : Nat) (h : m = k + l) :
    (x ++ y).extractLsb' k (n + l) = x ++ y.extractLsb' k l := by
  subst h
  ext i hi
  simp only [BitVec.getElem_extractLsb', BitVec.getLsbD_append, BitVec.getElem_append]
  by_cases hl : i < l
  · simp [hl]
  · rw [if_neg (by omega), dif_neg hl, show k + i - (k + l) = i - l by omega, BitVec.getLsbD_eq_getElem (by omega)]

/-- The first packed byte: the first value and the upper two bits of the second. -/
theorem packWord_byte0 (a b c d : Sextet) :
    (packWord a b c d).extractLsb' 16 8 = a ++ b.extractLsb' 4 2 := by
  rw [packWord_append, extract_high (a ++ b ++ c) d 16 8 (by decide), extract_high (a ++ b) c 10 8 (by decide)]
  exact extract_across a b 4 2 rfl

/-- The first two packed bytes: the first two values and the upper four bits of the third. -/
theorem packWord_bytes01 (a b c d : Sextet) :
    (packWord a b c d).extractLsb' 16 8 ++ (packWord a b c d).extractLsb' 8 8 = a ++ b ++ c.extractLsb' 2 4 := by
  rw [BitVec.extractLsb'_append_extractLsb'_eq_extractLsb' (by rfl), packWord_append,
    extract_high (a ++ b ++ c) d 8 16 (by decide)]
  exact extract_across (a ++ b) c 2 4 rfl

section
variable {iw aw : Nat}

theorem present_tail_one (addr : BitVec aw) (a b c d : Sextet) :
    present (some { addr := addr, bytes := (pack a b c d).take 1 }) =
      { valid := true, addr := addr, len := 1, data := a ++ b.extractLsb' 4 2 ++ 0#16 } := by
  have hdata : lanesOf ((pack a b c d).take 1) = a ++ b.extractLsb' 4 2 ++ 0#16 := by
    rw [lanesOf_take_one, packWord_byte0, BitVec.append_assoc]; rfl
  exact congrArg (WritePort.mk true addr · 1) hdata

theorem present_tail_two (addr : BitVec aw) (a b c d : Sextet) :
    present (some { addr := addr, bytes := (pack a b c d).take 2 }) =
      { valid := true, addr := addr, len := 2, data := a ++ b ++ c.extractLsb' 2 4 ++ 0#8 } := by
  have hdata : lanesOf ((pack a b c d).take 2) = a ++ b ++ c.extractLsb' 2 4 ++ 0#8 := by
    rw [lanesOf_take_two, packWord_bytes01]
  exact congrArg (WritePort.mk true addr · 2) hdata

/-! ## The cells of the table (R131) -/

variable {r : Regs iw aw}

@[simp] theorem malformedTail_iff (n : BitVec 2) (d : DState) :
    malformedTail n d = true ↔ n = 1 ∨ n = 3 ∧ d = .pad2 := by
  simp [malformedTail]

theorem finalize_malformed (h : r.cnt = 1 ∨ r.cnt = 3 ∧ r.dstate = .pad2) :
    finalize r = raiseInvalidInput r 0 .malformedTail :=
  if_pos ((malformedTail_iff _ _).2 h)

theorem finalize_zero (h : r.cnt = 0) : finalize r = ({ r with phase := .done }, none) := by
  simpa [h] using finalize_cases r

theorem finalize_two (h : r.cnt = 2) :
    finalize r = ({ r with phase := .done, cursor := r.cursor + 1 },
      some { addr := r.cursor, bytes := (pack r.g0 r.g1 0 0).take 1 }) := by
  simpa [h] using finalize_cases r

theorem finalize_three (h : r.cnt = 3) (hd : r.dstate ≠ .pad2) :
    finalize r = ({ r with phase := .done, cursor := r.cursor + 2 },
      some { addr := r.cursor, bytes := (pack r.g0 r.g1 r.g2 0).take 2 }) := by
  simpa [h, hd] using finalize_cases r

end

/-- R130: in an open call `FINISH` finalizes. -/
theorem exec_finish_busy {s : State} (x : Byte) (hp : s.regs.phase = .busy) :
    exec (.finish x) s = .next (s.after (finalize s.regs).1 (present (finalize s.regs).2)) := by
  rw [exec_eq_commit, effect, phaseCase_busy hp]; rfl

/-- R131, `n = 2`: the event names the upper two bits of `g1` only. -/
theorem exec_finish_two {s : State} (x : Byte) (hp : s.regs.phase = .busy) (hn : s.regs.cnt = 2) :
    exec (.finish x) s = .next (s.after { s.regs with phase := .done, cursor := s.regs.cursor + 1 }
      { valid := true, addr := s.regs.cursor, len := 1, data := s.regs.g0 ++ s.regs.g1.extractLsb' 4 2 ++ 0#16 }) := by
  rw [exec_finish_busy x hp, finalize_two hn, present_tail_one]

/-- R131, `n = 3` before the second pad marker: the event names the upper four bits of `g2` only. -/
theorem exec_finish_three {s : State} (x : Byte) (hp : s.regs.phase = .busy) (hn : s.regs.cnt = 3)
    (hd : s.regs.dstate ≠ .pad2) :
    exec (.finish x) s = .next (s.after { s.regs with phase := .done, cursor := s.regs.cursor + 2 }
      { valid := true, addr := s.regs.cursor, len := 2,
        data := s.regs.g0 ++ s.regs.g1 ++ s.regs.g2.extractLsb' 2 4 ++ 0#8 }) := by
  rw [exec_finish_busy x hp, finalize_three hn hd, present_tail_two]

/-! ## The obligations -/

/-- Settles O22: in an open call `finalize` decides by the cell of the table, outside one the phase. -/
theorem finishFollowsTable : Obligations.FinishFollowsTable := by
  intro s x
  refine ⟨fun hp h => ?malformed, fun hp hn => ?zero, fun hp hn => exec_finish_two x hp hn,
    fun hp hn hd => exec_finish_three x hp hn hd,
    fun hp => exec_in_err hp (.inl rfl), fun hp => exec_outside_call hp (.inl rfl)⟩
  case malformed => rw [exec_finish_busy x hp, finalize_malformed h]; rfl
  case zero => rw [exec_finish_busy x hp, finalize_zero hn]; rfl

/-- Settles O44: of the four outcomes of `finalize_cases` the first is an error, and the others write 0, 1 and 2 bytes. -/
theorem finishByteCount : Obligations.FinishByteCount := by
  intro s x hp
  refine ⟨_, _, exec_finish_busy x hp, ?_⟩
  rcases finalize_cases s.regs with ⟨-, h⟩ | ⟨hn, h⟩ | ⟨hn, h⟩ | ⟨hn, -, h⟩ <;> rw [h]
  · exact nofun
  · simp [hn]
  · simp [hn]
  · simp [hn]

/-- Settles O46: `exec_finish_two` and `exec_finish_three`, each at `s` and at the state with the other value, whose upper bits are
the same. -/
theorem trailingBitsUnchecked : Obligations.TrailingBitsUnchecked := by
  intro s x g hp
  refine ⟨fun hn hg => ⟨_, _, exec_finish_two x hp hn, rfl, ?two⟩,
    fun hn hd hg => ⟨_, _, exec_finish_three x hp hn hd, rfl, ?three⟩⟩
  case two => rw [exec_finish_two (s := s.after { s.regs with g1 := g } s.wr) x hp hn, ← hg]; rfl
  case three => rw [exec_finish_three (s := s.after { s.regs with g2 := g } s.wr) x hp hn hd, ← hg]; rfl

end Sys2Proof.Machine

/-! The packer (R142, R143, R147): the packed word as a number, and its bytes by the values they come from. -/

namespace Sys2Proof.Machine

/-! ## The packed word as a number -/

theorem toNat_append_eq_add {n m : Nat} (x : BitVec n) (y : BitVec m) :
    (x ++ y).toNat = x.toNat * 2 ^ m + y.toNat := by
  rw [BitVec.toNat_append, ← Nat.shiftLeft_add_eq_or_of_lt y.isLt, Nat.shiftLeft_eq]

/-! ## The bytes, by the values they come from (R143) -/

/-- A slice that begins inside the lower word and ends inside the upper one. -/
theorem extract_straddle {n m : Nat} (x : BitVec n) (y : BitVec m) (k l l' : Nat) (h : m = k + l') :
    (x ++ y).extractLsb' k (l + l') = x.extractLsb' 0 l ++ y.extractLsb' k l' := by
  rw [← BitVec.extractLsb'_append_extractLsb'_eq_extractLsb' h, extract_high x y m l le_rfl, Nat.sub_self,
    BitVec.extractLsb'_append_eq_of_add_le h.ge]

/-- The second packed byte: the lower four bits of the second value and the upper four bits of the third. -/
theorem packWord_byte1 (a b c d : Sextet) :
    (packWord a b c d).extractLsb' 8 8 = b.extractLsb' 0 4 ++ c.extractLsb' 2 4 := by
  rw [packWord_append, extract_high (a ++ b ++ c) d 8 8 (by decide), extract_straddle (a ++ b) c 2 4 4 rfl,
    BitVec.extractLsb'_append_eq_of_add_le (by decide)]

/-- The third packed byte: the lower two bits of the third value and the fourth value. -/
theorem packWord_byte2 (a b c d : Sextet) :
    (packWord a b c d).extractLsb' 0 8 = c.extractLsb' 0 2 ++ d := by
  rw [packWord_append, extract_straddle (a ++ b ++ c) d 0 2 6 rfl,
    BitVec.extractLsb'_append_eq_of_add_le (by decide), BitVec.extractLsb'_eq_self]

theorem pack_append (a b c d : Sextet) :
    pack a b c d = [a ++ b.extractLsb' 4 2, b.extractLsb' 0 4 ++ c.extractLsb' 2 4, c.extractLsb' 0 2 ++ d] := by
  rw [pack, packWord_byte0, packWord_byte1, packWord_byte2]

/-! ## The bytes by shifts and masks (R143) -/

/-- A shift right keeps the upper bits of a value. -/
theorem setWidth_ushiftRight_eq_extract (v : Sextet) (k l : Nat) (h : k + l = 6) :
    v.setWidth 8 >>> k = (v.extractLsb' k l).setWidth 8 := by
  ext i hi
  by_cases hl : i < l
  · simp [hl, show k + i < 8 by omega]
  · simp [hl, BitVec.getLsbD_of_ge v (k + i) (by omega)]

/-- A mask of `l` ones keeps the lower bits of a value. -/
theorem setWidth_and_ones_eq_extract (v : Sextet) (l : Nat) (m : Byte) (h : m = (BitVec.allOnes l).setWidth 8) :
    v.setWidth 8 &&& m = (v.extractLsb' 0 l).setWidth 8 := by
  subst h
  ext i hi
  simp [Bool.and_comm]

/-! ## The obligations -/

/-- Settles O31: the packed word is its values side by side, and each append is a place of the number. -/
theorem packIsPositional : Obligations.PackIsPositional := by
  intro a b c d
  refine ⟨?_, rfl⟩
  rw [packWord_append, toNat_append_eq_add, toNat_append_eq_add, toNat_append_eq_add]
  ring

/-- Settles O32: each shift or mask of a value is one of its parts, and an upper part shifted, or the lower one, is the two side by
side, as `pack_append` has them. -/
theorem packByteForm : Obligations.PackByteForm := by
  intro a b c d
  refine ⟨?_, pack_append a b c d⟩
  rw [setWidth_ushiftRight_eq_extract b 4 2 rfl, setWidth_ushiftRight_eq_extract c 2 4 rfl,
    setWidth_and_ones_eq_extract b 4 0xF#8 rfl, setWidth_and_ones_eq_extract c 2 0x3#8 rfl]
  simp only [← BitVec.setWidth_append_eq_shiftLeft_setWidth_or, BitVec.setWidth_eq]
  exact pack_append a b c d

/-- Settles O33: each byte of `pack_append` names only the bits that the statement lets agree. -/
theorem packLaneDependence : Obligations.PackLaneDependence := by
  intro a b c d a' b' c' d'
  rw [pack_append, pack_append]
  refine ⟨fun ha hb => ?byte0, fun hb hc => ?byte1, fun hc hd => ?byte2⟩
  case byte0 => rw [ha, hb]; rfl
  case byte1 => rw [hb, hc]; rfl
  case byte2 => rw [hc, hd]; rfl

end Sys2Proof.Machine

/-! The cursor (R26, R59, R148): how far a command's effect (`Does`) moves it, and where the event it presents begins. -/

namespace Sys2Proof.Machine

section
variable {iw aw : Nat} {lut : Lut} {i : Instr} {r : Regs iw aw} {e : Regs iw aw × Option (WriteEvent aw)}

/-- R30: a port without an event shows length 0. -/
theorem present_len_of_not_valid {o : Option (WriteEvent aw)} (h : (present o).valid = false) :
    (present o).len = 0 := by
  cases o with
  | none => rfl
  | some ev => cases h

/-- R102: `START` opens a clean call. -/
theorem Does.eq_openCall (h : Does lut i r e) (hs : isStart i = true) : e = openCall r := by
  cases h with
  | opens => rfl
  | _ hs' => exact absurd (hs.symm.trans hs') nofun

/-- R148: but for `START`, the cursor advances by the length of the presented event, 0 without one. -/
theorem Does.cursor_eq_add_len (h : Does lut i r e) (hs : isStart i = false) :
    e.1.cursor = r.cursor + BitVec.ofNat aw (present e.2).len.toNat := by
  cases h with
  | opens hs' => exact absurd (hs.symm.trans hs') nofun
  | emits | finishes2 | finishes3 => rfl
  | _ => exact (BitVec.add_zero r.cursor).symm

/-- R59, R148: an event is presented at the cursor of an open call: a full group of a byte of class `Value`, or the tail of
`FINISH`. -/
theorem Does.presented_event (h : Does lut i r e) (hv : (present e.2).valid = true) :
    (present e.2).addr = r.cursor ∧ r.phase = .busy ∧
      ((present e.2).len = 3 ∧ (∃ v, byteClass lut i = some (.value v)) ∨
        ((present e.2).len = 1 ∨ (present e.2).len = 2) ∧ isFinish i = true) := by
  cases h with
  | emits _ _ _ hp v hc => exact ⟨rfl, hp, .inl ⟨rfl, v, hc⟩⟩
  | finishes2 _ _ hf _ hp => exact ⟨rfl, hp, .inr ⟨.inl rfl, hf⟩⟩
  | finishes3 _ _ hf _ hp => exact ⟨rfl, hp, .inr ⟨.inr rfl, hf⟩⟩
  | _ => cases hv

/-- An offset that does not wrap counts on by `k`. -/
theorem toNat_add_ofNat_of_lt {c : BitVec aw} {k : Nat} (h : c.toNat + k < 2 ^ aw) :
    (c + BitVec.ofNat aw k).toNat = c.toNat + k := by
  rw [BitVec.toNat_add, BitVec.toNat_ofNat, Nat.add_mod_mod, Nat.mod_eq_of_lt h]

end

/-- Settles O43: `START` has the effect `openCall`, any other command moves the cursor by the presented length
(`Does.cursor_eq_add_len`), and `Does.presented_event` says where the event is and whose it is. -/
theorem cursorFollowsEvents : Obligations.CursorFollowsEvents := by
  intro i s
  obtain ⟨e, he, hx⟩ := exec_does i s
  refine ⟨e.1, present e.2, hx, fun hs => ?start, he.cursor_eq_add_len, fun hs hlt => ?noWrap, he.presented_event,
    present_len_of_not_valid⟩
  case start => rw [he.eq_openCall hs]; exact ⟨rfl, rfl⟩
  case noWrap => rw [he.cursor_eq_add_len hs, toNat_add_ofNat_of_lt hlt]

end Sys2Proof.Machine

/-! The block's one exception (R150 to R160): which effects (`Does`) raise `InvalidInput`, what raising it writes, and what the
record in `ERR` withstands. -/

namespace Sys2Proof.Machine

section
variable {iw aw : Nat} {lut : Lut} {i : Instr} {r : Regs iw aw} {e : Regs iw aw × Option (WriteEvent aw)}

/-- R157: only raising leads to `ERR`, and the recorded offset is the unmoved `idx` but for a malformed tail. -/
theorem Does.eq_raiseInvalidInput (h : Does lut i r e) (hp : r.phase ≠ .err) (he : e.1.phase = .err) :
    e = raiseInvalidInput r e.1.errOffset e.1.errCause ∧ (e.1.errCause ≠ .malformedTail → e.1.errOffset = r.idx) := by
  cases h with
  | raises => exact ⟨rfl, fun _ => rfl⟩
  | rejects => exact ⟨rfl, fun hc => absurd rfl hc⟩
  | opens | finishes0 | finishes2 | finishes3 => cases he
  | _ => exact absurd he hp

/-- R110, R160: in `ERR` a command but `START` can only set `proto_err`, and only `RSVD` does. -/
theorem Does.eq_of_err (h : Does lut i r e) (hp : r.phase = .err) (hs : isStart i = false) :
    e = ({ r with protoErr := r.protoErr || isRsvd i }, none) := by
  have hbusy : r.phase ≠ .busy := by simp [hp]
  cases h with
  | opens hs' => exact absurd (hs.symm.trans hs') nofun
  | nothing _ hr => simp [hr]
  | protocol _ h =>
    rcases h with ⟨hr, _⟩ | ⟨_, hidle | hdone, _⟩
    · simp [hr]
    · exact absurd (hp.symm.trans hidle) nofun
    · exact absurd (hp.symm.trans hdone) nofun
  | skips _ _ _ hb | pads _ _ _ hb | fills _ _ _ hb | emits _ _ _ hb | raises _ _ _ hb
  | rejects _ _ _ _ hb | finishes0 _ _ _ _ hb | finishes2 _ _ _ _ hb | finishes3 _ _ _ _ hb => exact absurd hb hbusy

end

/-! ## The obligations -/

/-- Settles O38: of the effects of an open call only `raises` and `rejects` record a cause, each under the condition of its own. -/
theorem errorCausesAreExact : Obligations.ErrorCausesAreExact := by
  intro i s hp hn
  obtain ⟨e, he, hx⟩ := exec_does i s
  refine ⟨e.1, present e.2, hx, ?_⟩
  cases he with
  | raises _ _ hf _ c hc =>
    rcases hc with ⟨hc, rfl⟩ | ⟨⟨v, hc⟩, hd, rfl⟩ | ⟨hc, hd, rfl⟩
    · simp [hc, hf]
    · simp [hc, hf, hd]
    · simp [hc, hf, hd]
  | rejects _ _ hf hc _ hm => simpa [hc, hf] using hm
  | nothing _ _ h =>
    rcases h with ⟨hc, hf⟩ | ⟨herr, _⟩
    · simp [hn, hp, hc, hf]
    · exact absurd (hp.symm.trans herr) nofun
  | protocol _ h =>
    rcases h with ⟨_, hc, hf⟩ | ⟨_, hidle | hdone, _⟩
    · simp [hn, hp, hc, hf]
    · exact absurd (hp.symm.trans hidle) nofun
    · exact absurd (hp.symm.trans hdone) nofun
  | opens _ _ hf hc => simp [hc, hf]
  | skips _ _ hf _ hc => simp [hn, hp, hc, hf]
  | pads _ _ hf _ hc d hd =>
    have hpad2 : s.regs.dstate ≠ .pad2 := by rcases hd with ⟨hd, _⟩ | ⟨hd, _⟩ <;> simp [hd]
    simp [hn, hp, hc, hf, hpad2]
  | fills _ _ hf _ v hc hd | emits _ _ hf _ v hc hd => simp [hn, hp, hc, hf, hd]
  | finishes0 _ _ _ hc _ hcnt | finishes2 _ _ _ hc _ hcnt => simp [hn, hc, hcnt]
  | finishes3 _ _ _ hc _ hcnt hd => simp [hn, hc, hcnt, hd]

/-- Settles O39: outside `ERR` the way into it is `raiseInvalidInput` (`Does.eq_raiseInvalidInput`), which presents no event. -/
theorem errorEntryFrame : Obligations.ErrorEntryFrame := by
  intro i s hp
  obtain ⟨e, he, hx⟩ := exec_does i s
  refine ⟨e.1, present e.2, hx, fun herr => ?_⟩
  obtain ⟨hraise, hoff⟩ := he.eq_raiseInvalidInput hp herr
  exact ⟨congrArg Prod.fst hraise, congrArg (present ∘ Prod.snd) hraise, hoff⟩

/-- Settles O40: the cycle leaves the command's effect (`step_cases`), and `Does.eq_of_err` is that effect. -/
theorem errorRecordIsFrozen : Obligations.ErrorRecordIsFrozen := by
  intro s ho hp hr hs
  rcases step_cases s with ⟨ho', _⟩ | ⟨_, hr', _⟩ | ⟨_, _, hstep⟩
  · exact absurd (ho.symm.trans ho') nofun
  · exact absurd (hr.symm.trans hr') nofun
  · rw [hstep, (effect_does s.cfg.lut s.command s.regs).eq_of_err hp hs, present_none]

end Sys2Proof.Machine

/-! Decoding forgets what came before (R161). Two calls on the same input, from whatever registers and port, stand after `START` in
states that differ in the sticky flag and the host's buffer only (`State.withHistory`); every later cycle keeps it so, and under the
host's duties none overruns the buffer (`CallAfter`). -/

namespace Sys2Proof.Machine

/-! ## The sticky flag -/

section
variable {iw aw : Nat}

/-- The same effect, but with the sticky flag at `b`. -/
def withProtoErr (b : Bool) (e : Regs iw aw × Option (WriteEvent aw)) : Regs iw aw × Option (WriteEvent aw) :=
  ({ e.1 with protoErr := b }, e.2)

variable (r : Regs iw aw) (b : Bool)

theorem padByte_withProtoErr : padByte { r with protoErr := b } = withProtoErr b (padByte r) := by
  obtain ⟨_, _ | _ | _⟩ := r <;> rfl

theorem groupAppend_withProtoErr (v : Sextet) :
    groupAppend { r with protoErr := b } v = withProtoErr b (groupAppend r v) := by
  unfold groupAppend setSlot
  split_ifs <;> rfl

theorem valueByte_withProtoErr (v : Sextet) :
    valueByte v { r with protoErr := b } = withProtoErr b (valueByte v r) := by
  by_cases hd : r.dstate = .data
  · rw [valueByte_data v hd, valueByte_data (r := { r with protoErr := b }) v hd]
    exact groupAppend_withProtoErr (consumeByte r) b v
  · rw [valueByte_not_data v hd, valueByte_not_data (r := { r with protoErr := b }) v hd]; rfl

theorem classifiedByte_withProtoErr (c : Classification) :
    classifiedByte c { r with protoErr := b } = withProtoErr b (classifiedByte c r) := by
  cases c with
  | skip | invalid => rfl
  | pad => exact padByte_withProtoErr r b
  | value v => exact valueByte_withProtoErr r b v

theorem finalize_withProtoErr : finalize { r with protoErr := b } = withProtoErr b (finalize r) := by
  unfold finalize emitTail
  split_ifs <;> rfl

variable {r}

/-- Where a call is open or has failed, the case on the phase leaves the flag to the operation (R103, R130). -/
theorem phaseCase_withProtoErr {act : Regs iw aw → Regs iw aw × Option (WriteEvent aw)}
    (hp : r.phase = .busy ∨ r.phase = .err) (hact : act { r with protoErr := b } = withProtoErr b (act r)) :
    phaseCase act { r with protoErr := b } = withProtoErr b (phaseCase act r) := by
  rcases hp with hp | hp
  · rw [phaseCase_busy hp, phaseCase_busy (r := { r with protoErr := b }) hp, hact]
  · rw [phaseCase_err hp, phaseCase_err (r := { r with protoErr := b }) hp]; rfl

/-- R29: in a call that is open or has failed, `BYTE` and `FINISH` neither read nor write the sticky flag. -/
theorem effect_withProtoErr {lut : Lut} {i : Instr} (hp : r.phase = .busy ∨ r.phase = .err)
    (hi : isFinish i = true ∨ (byteClass lut i).isSome = true) :
    effect lut i { r with protoErr := b } = withProtoErr b (effect lut i r) := by
  rcases hi with hi | hi
  · cases i with
    | finish => exact phaseCase_withProtoErr b hp (finalize_withProtoErr r b)
    | _ => cases hi
  · obtain ⟨c, hc⟩ := Option.isSome_iff_exists.1 hi
    rw [effect_of_byteClass hc, effect_of_byteClass hc]
    exact phaseCase_withProtoErr b hp (classifiedByte_withProtoErr r b c)

theorem effect_protoErr {lut : Lut} {i : Instr} (hp : r.phase = .busy ∨ r.phase = .err)
    (hi : isFinish i = true ∨ (byteClass lut i).isSome = true) : (effect lut i r).1.protoErr = r.protoErr :=
  congrArg (·.1.protoErr) (effect_withProtoErr r.protoErr hp hi)

end

/-! ## A call under the host's duties -/

theorem two_pow_mod_three_ne_zero (k : Nat) : 2 ^ k % 3 ≠ 0 := fun h =>
  absurd (Nat.prime_three.dvd_of_dvd_pow (Nat.dvd_of_mod_eq_zero h)) (by decide)

/-- The estimate is a multiple of 3, so it does not fill the output space. -/
theorem Duties.estimate_lt {c : Config} {n : Nat} (h : Duties c n) : estimateDecodedLength n < 2 ^ c.addrW := by
  refine lt_of_le_of_ne h.output fun heq => two_pow_mod_three_ne_zero c.addrW ?_
  rw [← heq]
  exact Nat.mul_mod_left _ 3

theorem estimateDecodedLength_mono {n m : Nat} (h : n ≤ m) : estimateDecodedLength n ≤ estimateDecodedLength m :=
  Nat.mul_le_mul_right 3 (Nat.div_le_div_right (Nat.add_le_add_right h 3))

section
variable {iw aw n : Nat} {lut : Lut} {i : Instr} {r : Regs iw aw} {w : WritePort aw}
  {e : Regs iw aw × Option (WriteEvent aw)}

/-- After `START` and `n` bytes: the call is open or has failed, the cursor stands at a full group (R56), the bytes read pay for
the groups written and the slots filled (R62), and the presented event lies below the cursor. -/
structure CallAfter (n : Nat) (r : Regs iw aw) (w : WritePort aw) : Prop where
  phase : r.phase = .busy ∨ r.phase = .err
  aligned : r.cursor.toNat % 3 = 0
  paid : 4 * (r.cursor.toNat / 3) + r.cnt.toNat ≤ n
  below : ∀ l ∈ portLanes w, l.1 < r.cursor.toNat

theorem callAfter_openCall : CallAfter 0 (openCall r).1 (idlePort aw) where
  phase := .inl rfl
  aligned := by simp
  paid := by simp
  below := by simp

/-- R62: the output so far fits the estimate for the bytes read so far. -/
theorem CallAfter.cursor_le (h : CallAfter n r w) : r.cursor.toNat ≤ estimateDecodedLength n := by
  have := h.aligned
  have := h.paid
  unfold estimateDecodedLength
  omega

theorem CallAfter.not_overruns (h : CallAfter n r w) {outLen : Nat} (hfit : estimateDecodedLength n ≤ outLen) :
    overruns outLen w = false := by
  refine List.any_eq_false.2 fun l hl => ?_
  have := h.below l hl
  have := h.cursor_le
  simp only [decide_eq_true_eq]
  omega

/-- A byte that writes nothing and uses up no more than itself. -/
theorem CallAfter.succ_quiet (h : CallAfter n r w) {r' : Regs iw aw} (hp : r'.phase = .busy ∨ r'.phase = .err)
    (hc : r'.cursor = r.cursor) (hn : r'.cnt.toNat ≤ r.cnt.toNat + 1) : CallAfter (n + 1) r' (idlePort aw) where
  phase := hp
  aligned := hc ▸ h.aligned
  paid := by have := h.paid; rw [hc]; omega
  below := by simp

/-- The fourth value of a group: three bytes written, four bytes of input used up. -/
theorem CallAfter.succ_emits (h : CallAfter n r w) (hcnt : r.cnt = 3) (hfit : estimateDecodedLength (n + 1) < 2 ^ aw)
    (a b c d : Sextet) :
    CallAfter (n + 1) { r with idx := r.idx + 1, cnt := 0, cursor := r.cursor + 3 }
      (present (some { addr := r.cursor, bytes := pack a b c d })) := by
  have haligned := h.aligned
  have hpaid := h.paid
  rw [hcnt, show (3 : BitVec 2).toNat = 3 from rfl] at hpaid
  have hroom : r.cursor.toNat + 3 < 2 ^ aw := by unfold estimateDecodedLength at hfit; omega
  have hcursor : (r.cursor + 3).toNat = r.cursor.toNat + 3 := toNat_add_ofNat_of_lt hroom
  refine ⟨h.phase, ?aligned, ?paid, ?below⟩ <;> simp only [hcursor]
  case aligned => omega
  case paid => rw [show (0 : BitVec 2).toNat = 0 from rfl]; omega
  case below =>
    rw [portLanes_present _ _ (by simp) (by simp) (by simpa using hroom)]
    intro l hl
    obtain ⟨k, hk, rfl⟩ := List.mem_mapIdx.1 hl
    rw [pack_length] at hk
    simp only
    omega

/-- R62: a byte carries the call from `n` to `n + 1`. -/
theorem CallAfter.succ (h : CallAfter n r w) (hi : (byteClass lut i).isSome = true)
    (hfit : estimateDecodedLength (n + 1) < 2 ^ aw) (he : Does lut i r e) : CallAfter (n + 1) e.1 (present e.2) := by
  cases he with
  | nothing | skips | pads => exact h.succ_quiet h.phase rfl (Nat.le_succ _)
  | raises => exact h.succ_quiet (.inr rfl) rfl (Nat.le_succ _)
  | fills _ _ _ hp _ _ _ _ _ _ k hk =>
    refine h.succ_quiet (.inl hp) rfl ?_
    rcases hk with ⟨hk, rfl, _⟩ | ⟨hk, rfl, _⟩ | ⟨hk, rfl, _⟩ <;> simp [hk]
  | emits _ _ _ _ _ _ _ hcnt => exact h.succ_emits hcnt hfit _ _ _ _
  | protocol _ hk =>
    rcases hk with ⟨_, hc, _⟩ | ⟨_, hk, _⟩
    · simp [hc] at hi
    · rcases h.phase with hp | hp <;> simp [hp] at hk
  | opens _ _ _ hc | rejects _ _ _ hc | finishes0 _ _ _ hc | finishes2 _ _ _ hc | finishes3 _ _ _ hc =>
    simp [hc] at hi

end

/-! ## Two runs side by side -/

/-- The state at the end of the cycle in which the host drives the word `w`. -/
def State.afterWord (s : State) (w : CmdWord) : State :=
  s.afterEdge (effect s.cfg.lut (decodeCmd w) s.regs).1 (present (effect s.cfg.lut (decodeCmd w) s.regs).2)

/-- `s` with what an earlier call may have left: the sticky flag and the host's buffer. -/
def State.withHistory (s : State) (b : Bool) (m : Memory) : State :=
  { s with regs := { s.regs with protoErr := b }, buf := m }

theorem run_succ_word {s : State} {w : CmdWord} {rest : List PortIn} (k : Nat)
    (ho : overruns s.cfg.outLen s.wr = false) (hi : s.inputs = { rst := false, cmd := w } :: rest) :
    core.run (k + 1) s = core.run k (s.afterWord w) := by
  rw [run_word s w rest k ho hi, State.afterWord, State.afterEdge, hi]; rfl

/-- A cycle of a call does the same over every history. -/
theorem afterWord_withHistory {s : State} {w : CmdWord} (hp : s.regs.phase = .busy ∨ s.regs.phase = .err)
    (hw : isFinish (decodeCmd w) = true ∨ (byteClass s.cfg.lut (decodeCmd w)).isSome = true) (b : Bool) (m : Memory) :
    (s.withHistory b m).afterWord w = (s.afterWord w).withHistory b (applyPort s.wr m) := by
  have he := effect_withProtoErr b hp hw
  simp only [State.afterWord, State.withHistory, he]
  rfl

/-- After `START` nothing but the flag and the buffer is left of what was before (R102). -/
theorem afterWord_start_after (s : State) (q : Regs s.cfg.idxW s.cfg.addrW) (p : WritePort s.cfg.addrW) :
    (s.after q p).afterWord (encode (.start 0)) =
      (s.afterWord (encode (.start 0))).withHistory q.protoErr (applyPort p s.buf) := rfl

/-- After `k` cycles from `s` and from `t`: the same registers and the same port, but for the flag, which is the one of `s` and `b`;
the first `k` inputs of `s` are used up. -/
def RunAlike (k : Nat) (s t : State) (b : Bool) : Prop :=
  ∃ r w m m',
    core.run k s = .next { cfg := s.cfg, regs := r, wr := w, buf := m, inputs := s.inputs.drop k } ∧
    core.run k t = .next
      { cfg := s.cfg, regs := { r with protoErr := b }, wr := w, buf := m', inputs := s.inputs.drop k } ∧
    r.protoErr = s.regs.protoErr

theorem runAlike_zero (s : State) (b : Bool) (m : Memory) : RunAlike 0 s (s.withHistory b m) b :=
  ⟨s.regs, s.wr, s.buf, m, rfl, rfl, rfl⟩

/-- One more cycle in front. -/
theorem RunAlike.succ {s t : State} {w : CmdWord} {rest : List PortIn} {k : Nat} {b : Bool}
    (hs : overruns s.cfg.outLen s.wr = false) (ht : overruns t.cfg.outLen t.wr = false)
    (hi : s.inputs = { rst := false, cmd := w } :: rest) (hit : t.inputs = s.inputs)
    (hflag : (s.afterWord w).regs.protoErr = s.regs.protoErr)
    (h : RunAlike k (s.afterWord w) (t.afterWord w) b) : RunAlike (k + 1) s t b := by
  obtain ⟨r, wr, m, m', hrun, hrun', hr⟩ := h
  have hdrop : (s.afterWord w).inputs.drop k = s.inputs.drop (k + 1) := List.drop_tail
  rw [hdrop] at hrun hrun'
  exact ⟨r, wr, m, m', (run_succ_word k hs hi).trans hrun, (run_succ_word k ht (hit.trans hi)).trans hrun',
    hr.trans hflag⟩

/-- One more cycle of a call in front, over two histories. -/
theorem RunAlike.succ_call {s : State} {w : CmdWord} {rest : List PortIn} {n k : Nat} {b : Bool} {m : Memory}
    (hs : CallAfter n s.regs s.wr) (hfit : estimateDecodedLength n ≤ s.cfg.outLen)
    (hi : s.inputs = { rst := false, cmd := w } :: rest)
    (hw : isFinish (decodeCmd w) = true ∨ (byteClass s.cfg.lut (decodeCmd w)).isSome = true)
    (h : RunAlike k (s.afterWord w) ((s.afterWord w).withHistory b (applyPort s.wr m)) b) :
    RunAlike (k + 1) s (s.withHistory b m) b := by
  have ho := hs.not_overruns hfit
  refine .succ ho ho hi rfl (effect_protoErr hs.phase hw) ?_
  rwa [afterWord_withHistory hs.phase hw]

/-- The cycles after `START`: by induction on the bytes still to come. -/
theorem runAlike_call (x : List Byte) (rest : List PortIn) (b : Bool) (n : Nat) (s : State) (m : Memory) (k : Nat)
    (hs : CallAfter n s.regs s.wr) (hd : Duties s.cfg (n + x.length))
    (hi : s.inputs = driveWords (byteWords x ++ [encode (.finish 0)]) ++ rest) (hk : k ≤ x.length + 1) :
    RunAlike k s (s.withHistory b m) b := by
  induction x generalizing n s m k with
  | nil =>
    match k, hk with
    | 0, _ => exact runAlike_zero s b m
    | 1, _ => exact .succ_call hs hd.buffer hi (.inl (by decide)) (runAlike_zero _ b _)
  | cons c x ih =>
    cases k with
    | zero => exact runAlike_zero s b m
    | succ k =>
      have hd' : Duties s.cfg (n + 1 + x.length) := by rwa [Nat.add_right_comm]
      have hle : n + 1 ≤ n + 1 + x.length := Nat.le_add_right _ _
      have hbuf := (estimateDecodedLength_mono ((Nat.le_succ n).trans hle)).trans hd'.buffer
      have hspace := (estimateDecodedLength_mono hle).trans_lt hd'.estimate_lt
      have hw : (byteClass s.cfg.lut (decodeCmd (encode (.byte c)))).isSome = true := by
        rw [decodeCmd_encode_byte]; rfl
      refine .succ_call hs hbuf hi (.inr hw) (ih (n + 1) _ _ k ?_ hd' ?_ (Nat.le_of_succ_le_succ hk))
      · exact hs.succ hw hspace (effect_does _ _ _)
      · exact congrArg List.tail hi

/-- Settles O51: after `START` the two runs are in one state over two histories (`afterWord_start_after`), and stay so
(`runAlike_call`). -/
theorem decodeForgetsHistory : Obligations.DecodeForgetsHistory := by
  intro s q p x rest k hd hs hp hi hk
  refine RunAlike.succ (t := s.after q p) (w := encode (.start 0)) hs hp hi rfl rfl ?_
  rw [afterWord_start_after]
  refine runAlike_call x rest q.protoErr 0 _ _ k callAfter_openCall ?_ (congrArg List.tail hi) hk
  rwa [Nat.zero_add]

end Sys2Proof.Machine

/-! Decoding and encoding (R70 to R73, R84): the first level is a left and right inverse of `encode`, and the second level chooses
among the forms of `BYTE`, which share one word. -/

namespace Sys2Proof

open Machine

/-- The three fields of a word, put together again. -/
theorem append_fields (w : CmdWord) :
    w.extractLsb' 10 1 ++ w.extractLsb' 8 2 ++ w.extractLsb' 0 8 = w := by
  rw [BitVec.extractLsb'_append_extractLsb'_eq_extractLsb' (by rfl),
    BitVec.extractLsb'_append_extractLsb'_eq_extractLsb' (by rfl)]
  exact BitVec.extractLsb'_eq_self

/-- R70: a word with `valid = 1` is its three upper bits and its operand. -/
theorem append_operand {w : CmdWord} {op : BitVec 2} {upper : BitVec 3} (hv : w.extractLsb' 10 1 ≠ 0#1)
    (ho : w.extractLsb' 8 2 = op) (hu : 1#1 ++ op = upper) : upper ++ w.extractLsb' 0 8 = w := by
  have hv1 : w.extractLsb' 10 1 = 1#1 := by
    generalize w.extractLsb' 10 1 = v at hv
    revert v; decide
  rw [← hu, ← ho, ← hv1]
  exact append_fields w

/-- R70: a word with `valid = 0` is that bit and the ten ignored ones. -/
theorem append_ignored {w : CmdWord} (hv : w.extractLsb' 10 1 = 0#1) : 0#1 ++ w.extractLsb' 0 10 = w := by
  rw [← hv, BitVec.extractLsb'_append_extractLsb'_eq_extractLsb' (by rfl)]
  exact BitVec.extractLsb'_eq_self

/-- R82(g): every word is the word of the command it decodes to. -/
theorem encode_decodeCmd (w : CmdWord) : encode (decodeCmd w) = w := by
  unfold decodeCmd
  split_ifs with hnop hstart hbyte hfinish <;> simp only [encode]
  · exact append_ignored hnop
  · exact append_operand hnop hstart (by decide)
  · exact append_operand hnop hbyte (by decide)
  · exact append_operand hnop hfinish (by decide)
  · have hrsvd : w.extractLsb' 8 2 = 3#2 := by
      generalize w.extractLsb' 8 2 = op at hstart hbyte hfinish
      revert op; decide
    exact append_operand hnop hrsvd (by decide)

theorem decodeCmd_encode_nop (x : BitVec 10) : decodeCmd (encode (.nop x)) = .nop x := by
  have hv : (0#1 ++ x : CmdWord).extractLsb' 10 1 = 0#1 := extract_high 0#1 x 10 1 le_rfl
  have hx : (0#1 ++ x : CmdWord).extractLsb' 0 10 = x := extract_low 0#1 x
  rw [encode, decodeCmd, if_pos hv, hx]

theorem decodeCmd_encode_start (x : Byte) : decodeCmd (encode (.start x)) = .start x := decodeCmd_append 4#3 x rfl
theorem decodeCmd_encode_finish (x : Byte) : decodeCmd (encode (.finish x)) = .finish x := decodeCmd_append 6#3 x rfl
theorem decodeCmd_encode_rsvd (x : Byte) : decodeCmd (encode (.rsvd x)) = .rsvd x := decodeCmd_append 7#3 x rfl

@[simp] theorem encode_selectForm (lut : Lut) (i : Instr) : encode (selectForm lut i) = encode i := by
  cases i with
  | byte b => exact encode_formOf b _
  | _ => rfl

/-- R73: a word of `BYTE` decodes in an open call to the form of the byte's class. -/
theorem decode_byte_busy (lut : Lut) (b : Byte) : decode lut true (encode (.byte b)) = formOf b (classify lut b) := by
  rw [decode, decodeCmd_encode_byte]; rfl

/-- R70 to R73: a well-formed instruction comes back from its word. -/
theorem decode_encode {lut : Lut} {busy : Bool} {i : Instr} (h : i.wf lut busy = true) :
    decode lut busy (encode i) = i := by
  cases i with
  | nop x => rw [decode, decodeCmd_encode_nop]; exact ite_self _
  | start x => rw [decode, decodeCmd_encode_start]; exact ite_self _
  | finish x => rw [decode, decodeCmd_encode_finish]; exact ite_self _
  | rsvd x => rw [decode, decodeCmd_encode_rsvd]; exact ite_self _
  | byte b =>
    have hbusy : busy = false := by simpa [Instr.wf] using h
    subst hbusy
    exact decodeCmd_encode_byte b
  | byteValue b | byteSkip b | bytePad b | byteInvalid b =>
    obtain ⟨rfl, hc⟩ : busy = true ∧ _ := by simpa only [Instr.wf, Bool.and_eq_true, decide_eq_true_eq] using h
    refine (decode_byte_busy lut b).trans ?_
    rw [hc]; rfl

theorem encode_decode (lut : Lut) (busy : Bool) (w : CmdWord) : encode (decode lut busy w) = w := by
  cases busy with
  | false => exact encode_decodeCmd w
  | true => exact (encode_selectForm lut _).trans (encode_decodeCmd w)

/-- R75: the form that a byte's class selects is well-formed in an open call. -/
theorem formOf_wf (lut : Lut) (b : Byte) : (formOf b (classify lut b)).wf lut true = true := by
  cases h : classify lut b with
  | value v => simp [formOf, Instr.wf, h, classify_value h]
  | skip | pad | invalid => simp [formOf, Instr.wf, h]

/-- R73, R84: the decoder issues well-formed instructions only. -/
theorem decode_wf (lut : Lut) (busy : Bool) (w : CmdWord) : (decode lut busy w).wf lut busy = true := by
  cases busy with
  | false =>
    change (decodeCmd w).wf lut false = true
    rcases decodeCmd_cases w with ⟨_, h⟩ | ⟨_, h⟩ | ⟨_, h⟩ | ⟨_, h⟩ | ⟨_, h⟩ <;> rw [h] <;> rfl
  | true =>
    change (selectForm lut (decodeCmd w)).wf lut true = true
    rcases decodeCmd_cases w with ⟨_, h⟩ | ⟨_, h⟩ | ⟨b, h⟩ | ⟨_, h⟩ | ⟨_, h⟩ <;> rw [h]
    case inr.inr.inl => exact formOf_wf lut b
    all_goals rfl

namespace Machine

/-- Settles O4: one way by `decode_encode`, the other by `encode_decode` and `decode_wf`. -/
theorem decodeEncodeInverse : Obligations.DecodeEncodeInverse := fun lut busy =>
  ⟨fun _ h => decode_encode h, fun w => ⟨encode_decode lut busy w, decode_wf lut busy w⟩⟩

/-- Settles O3: six words, evaluated. -/
theorem sampleWordsDecode : Obligations.SampleWordsDecode := by
  unfold Obligations.SampleWordsDecode
  decide

/-- Settles O5: no arm of `exec` reads the ignored bits. -/
theorem ignoredBitsHaveNoEffect : Obligations.IgnoredBitsHaveNoEffect := fun _ _ _ => ⟨rfl, rfl, rfl, rfl⟩

theorem byteWords_eq (x : List Byte) : byteWords x = x.map fun b => 5#3 ++ b := rfl

/-- Settles O11: the lines around the bytes' words are closed words. -/
theorem assemblerExpandsLines : Obligations.AssemblerExpandsLines :=
  ⟨fun _ => rfl, byteWords_eq, fun _ => rfl, rfl, rfl, rfl, fun _ => ⟨rfl, rfl⟩⟩

end Machine

end Sys2Proof

/-! The cycle (R30, R84, R100, R171): what it reads from the inputs, what it does to the buffer and to the phase. -/

namespace Sys2Proof.Machine

theorem portIn_cons {s : State} {p : PortIn} {rest : List PortIn} (h : s.inputs = p :: rest) : s.portIn = p := by
  rw [State.portIn, h]; rfl

theorem portIn_nil {s : State} (h : s.inputs = []) : s.portIn = idleInput := by
  rw [State.portIn, h]; rfl

/-- R170, R171: a cycle with `rst = 1`. -/
theorem step_of_reset {s : State} (ho : overruns s.cfg.outLen s.wr = false) (hr : s.portIn.rst = true) :
    step s = .next (s.afterEdge (resetRegs s.cfg.idxW s.cfg.addrW) (idlePort s.cfg.addrW)) := by
  rcases step_cases s with ⟨ho', _⟩ | ⟨_, _, h⟩ | ⟨_, hr', _⟩
  · exact absurd (ho.symm.trans ho') nofun
  · exact h
  · exact absurd (hr.symm.trans hr') nofun

/-- R84, R100: a cycle with `rst = 0` runs the command on the port. -/
theorem step_of_command {s : State} (ho : overruns s.cfg.outLen s.wr = false) (hr : s.portIn.rst = false) :
    step s = exec s.command s.atEdge := by
  rcases step_cases s with ⟨ho', _⟩ | ⟨_, hr', _⟩ | ⟨_, _, h⟩
  · exact absurd (ho.symm.trans ho') nofun
  · exact absurd (hr.symm.trans hr') nofun
  · exact h.trans (exec_eq_commit s.command s.atEdge).symm

/-- R34: the word that a host drives when it presents nothing is a `NOP`. -/
theorem command_idle {s : State} (h : s.inputs = []) : s.command = .nop 0 := by
  rw [State.command, portIn_nil h]
  exact decode_encode (i := .nop 0) rfl

/-- The port shows the encoded word itself: 16 bits hold it. -/
theorem ofNat_encode (i : Instr) : BitVec.ofNat 11 ((encode i).toNat % 2 ^ 16) = encode i := by
  have hlt : (encode i).toNat < 2 ^ 16 := (encode i).isLt.trans (by decide)
  rw [Nat.mod_eq_of_lt hlt, BitVec.ofNat_toNat, BitVec.setWidth_eq]

/-- R21, R159: the effects that write `phase`. -/
theorem Does.phase_cases {iw aw : Nat} {lut : Lut} {i : Instr} {r : Regs iw aw}
    {e : Regs iw aw × Option (WriteEvent aw)} (h : Does lut i r e) :
    e.1.phase = r.phase ∨
    (e.1.phase = .busy ∧ isStart i = true) ∨
    (e.1.phase = .done ∧ r.phase = .busy ∧ isFinish i = true ∧ malformedTail r.cnt r.dstate = false) ∨
    (e.1.phase = .err ∧ r.phase = .busy ∧
      (isFinish i = true ∧ malformedTail r.cnt r.dstate = true ∨ ∃ c, byteClass lut i = some c)) := by
  cases h with
  | nothing | protocol | skips | pads | fills | emits => exact .inl rfl
  | opens hs => exact .inr (.inl ⟨rfl, hs⟩)
  | finishes0 _ _ hf _ hp hn | finishes2 _ _ hf _ hp hn =>
    exact .inr (.inr (.inl ⟨rfl, hp, hf, by simp [malformedTail, hn]⟩))
  | finishes3 _ _ hf _ hp hn hd => exact .inr (.inr (.inl ⟨rfl, hp, hf, by simp [malformedTail, hn, hd]⟩))
  | rejects _ _ hf _ hp hm => exact .inr (.inr (.inr ⟨rfl, hp, .inl ⟨hf, hm⟩⟩))
  | raises _ _ _ hp _ hc =>
    refine .inr (.inr (.inr ⟨rfl, hp, .inr ?_⟩))
    rcases hc with ⟨hc, _⟩ | ⟨⟨v, hc⟩, _⟩ | ⟨hc, _⟩ <;> exact ⟨_, hc⟩

/-! ## The obligations -/

/-- Settles O1: the registers of `resetRegs` and `idlePort`, one by one. -/
theorem resetStateValues : Obligations.ResetStateValues :=
  ⟨rfl, rfl, rfl, rfl, rfl, rfl, rfl, rfl, rfl, rfl, rfl, rfl, rfl, rfl, rfl⟩

/-- Settles O2: `step_of_reset`, whose registers are `resetRegs`. -/
theorem resetEdgeClearsEverything : Obligations.ResetEdgeClearsEverything := by
  intro s c rest ho hi
  rw [step_of_reset ho (by rw [portIn_cons hi]), State.afterEdge, hi]; rfl

/-- Settles O10: the estimate is a quotient by 4, times 3. -/
theorem estimateIsCeiling : Obligations.EstimateIsCeiling := by
  intro n
  unfold estimateDecodedLength
  omega

/-- Settles O23: `step_of_command`, with the first pending word as the command. -/
theorem stepRunsDecodedCommand : Obligations.StepRunsDecodedCommand := by
  rintro s c rest i ho hi rfl
  rw [step_of_command ho (by rw [portIn_cons hi]), State.command, portIn_cons hi, State.atEdge, hi]; rfl

/-- Settles O24: the presented word is the instruction's own (`ofNat_encode`), and `decode_encode` gives the instruction back. -/
theorem presentedInstructionRuns : Obligations.PresentedInstructionRuns := by
  intro s i ho hwf
  have hcommand : (s.withFetchWord 16 (encode i).toNat).command = i := by
    rw [State.command, withFetchWord_portIn, ofNat_encode]
    exact decode_encode hwf
  rw [step_of_command (s := s.withFetchWord 16 (encode i).toNat) ho rfl, hcommand]; rfl

/-- Settles O25: the idle host's command is `NOP` (`command_idle`), which has no effect. -/
theorem idleCycleKeepsRegisters : Obligations.IdleCycleKeepsRegisters := by
  intro s ho hi
  rw [step_of_command ho (by rw [portIn_nil hi]; rfl), command_idle hi]
  exact nopHasNoEffect s.atEdge 0

/-- Settles O26: both a reset and a command leave an `afterEdge` state (`step_cases`). -/
theorem everyCycleAppliesPresentedEvent : Obligations.EveryCycleAppliesPresentedEvent := by
  intro s ho
  rcases step_cases s with ⟨ho', _⟩ | ⟨_, _, h⟩ | ⟨_, _, h⟩
  · exact absurd (ho.symm.trans ho') nofun
  · exact ⟨_, _, h⟩
  · exact ⟨_, _, h⟩

/-- Settles O37: a cycle is a reset or a command's effect, and `Does.phase_cases` says which effects write `phase`. -/
theorem phaseChangesOnlyByRule : Obligations.PhaseChangesOnlyByRule := by
  intro s t hstep hne
  rcases step_next hstep with ⟨hr, rfl⟩ | ⟨hr, e, he, rfl⟩
  · exact .inl ⟨rfl, hr⟩
  · rcases he.phase_cases with hk | ⟨hp, hs⟩ | ⟨hp, hrest⟩ | ⟨hp, hrest⟩
    · exact absurd hk hne
    · exact .inr (.inl ⟨hp, hr, hs⟩)
    · exact .inr (.inr (.inl ⟨hp, hr, hrest⟩))
    · exact .inr (.inr (.inr ⟨hp, hr, hrest⟩))

end Sys2Proof.Machine

/-! The presented event on the host's side (R55, R61): its lanes, the offsets it writes, and when it overruns the buffer. -/

namespace Sys2Proof.Machine

section
variable {aw : Nat} {p : WritePort aw}

/-- The byte on lane `k` (R55). -/
def laneByte (p : WritePort aw) (k : Nat) : Byte := p.data.extractLsb' (16 - 8 * k) 8

/-- R55: an event writes its first `wr_len` lanes, in order. -/
theorem portLanes_eq_map (hv : p.valid = true) :
    portLanes p = (List.range p.len.toNat).map fun k => (laneOffset p k, laneByte p k) := by
  have hlen : p.len.toNat = 0 ∨ p.len.toNat = 1 ∨ p.len.toNat = 2 ∨ p.len.toNat = 3 := by
    have := p.len.isLt
    omega
  rw [portLanes, if_pos hv]
  rcases hlen with h | h | h | h <;> rw [h] <;> rfl

/-- R61: an event overruns the buffer when one of its lanes does. -/
theorem overruns_iff {outLen : Nat} :
    overruns outLen p = true ↔ p.valid = true ∧ ∃ k < p.len.toNat, outLen ≤ laneOffset p k := by
  cases hv : p.valid with
  | false => simp [overruns, portLanes, hv]
  | true => simp [overruns, portLanes_eq_map hv]

/-- R7, R55: an output space of at least four offsets keeps the lanes of an event apart. -/
theorem laneOffset_inj (haw : 2 ≤ aw) {j k : Nat} (hj : j < 3) (hk : k < 3) (h : laneOffset p j = laneOffset p k) :
    j = k := by
  have hspace : 2 ^ 2 ≤ 2 ^ aw := Nat.pow_le_pow_right (by decide) haw
  have hlane : BitVec.ofNat aw j = BitVec.ofNat aw k := (BitVec.add_right_inj p.addr).1 (BitVec.eq_of_toNat_eq h)
  have hnat := congrArg BitVec.toNat hlane
  rwa [BitVec.toNat_ofNat, BitVec.toNat_ofNat, Nat.mod_eq_of_lt (by omega), Nat.mod_eq_of_lt (by omega)] at hnat

end

/-- A byte stored by lanes at different offsets is read back. -/
theorem Memory.read_foldl_of_mem {ls : List (Nat × Byte)} {l : Nat × Byte} (m : Memory)
    (hls : (ls.map Prod.fst).Nodup) (hl : l ∈ ls) :
    (ls.foldl (fun m l => m.write l.1 l.2) m).read l.1 = some l.2 := by
  induction ls generalizing m with
  | nil => cases hl
  | cons c ls ih =>
    obtain ⟨hc, hls⟩ := List.nodup_cons.1 hls
    rcases List.mem_cons.1 hl with rfl | hl
    · have hother : ∀ d ∈ ls, l.1 ≠ d.1 := fun d hd heq => hc (List.mem_map.2 ⟨d, hd, heq.symm⟩)
      rw [List.foldl_cons, Memory.read_foldl_other ls _ hother]
      exact Memory.read_write_same m l.1 l.2
    · exact ih _ hls hl

section
variable {aw : Nat} {p : WritePort aw}

theorem portLanes_offsets_nodup (haw : 2 ≤ aw) (hv : p.valid = true) : ((portLanes p).map Prod.fst).Nodup := by
  rw [portLanes_eq_map hv, List.map_map]
  refine List.Nodup.map_on (fun j hj k hk h => ?_) List.nodup_range
  have hlen := p.len.isLt
  rw [List.mem_range] at hj hk
  exact laneOffset_inj haw (by omega) (by omega) h

theorem read_applyPort_lane (haw : 2 ≤ aw) (hv : p.valid = true) (m : Memory) {k : Nat} (hk : k < p.len.toNat) :
    (applyPort p m).read (laneOffset p k) = some (laneByte p k) := by
  refine Memory.read_foldl_of_mem (l := (laneOffset p k, laneByte p k)) m (portLanes_offsets_nodup haw hv) ?_
  rw [portLanes_eq_map hv]
  exact List.mem_map_of_mem (List.mem_range.2 hk)

theorem read_applyPort_other (hv : p.valid = true) (m : Memory) {a : Nat}
    (ha : ∀ k < p.len.toNat, a ≠ laneOffset p k) : (applyPort p m).read a = m.read a := by
  refine Memory.read_foldl_other _ m fun l hl => ?_
  rw [portLanes_eq_map hv] at hl
  obtain ⟨k, hk, rfl⟩ := List.mem_map.1 hl
  exact ha k (List.mem_range.1 hk)

end

/-! ## The obligations -/

/-- Settles O28: each lane is read back at its own offset (`read_applyPort_lane`), any other offset as before. -/
theorem eventWritesItsLanes : Obligations.EventWritesItsLanes := by
  intro s hwf hv
  have haw : 2 ≤ s.cfg.addrW := by
    simp only [Config.wf, Bool.and_eq_true, decide_eq_true_eq] at hwf
    exact hwf.2
  refine ⟨fun h => ?lane0, read_applyPort_lane haw hv s.buf, read_applyPort_lane haw hv s.buf,
    fun a ha => read_applyPort_other hv s.buf ha⟩
  have hlane := read_applyPort_lane haw hv s.buf h
  rwa [laneOffset, BitVec.add_zero] at hlane

/-- Settles O29: the fault is the overrun (`step_cases`), and `overruns_iff` says when that is. -/
theorem overrunFaultsExactly : Obligations.OverrunFaultsExactly := by
  intro s
  refine Iff.trans ?_ overruns_iff
  rcases step_cases s with ⟨ho, h⟩ | ⟨ho, _, h⟩ | ⟨ho, _, h⟩ <;> simp [ho, h]

end Sys2Proof.Machine

/-! The invariant (R27 to R30, R131, R138, R157) in three parts, on the buffer, the registers and the write port, each kept by what
writes it: the presented event, a command's effect (`Does`), and the event it presents. -/

namespace Sys2Proof.Machine

/-! ## The buffer -/

/-- R50(c): the buffer is canonical and inside the output space. -/
structure BufferInv (aw : Nat) (m : Memory) : Prop where
  wf : m.wf = true
  space : ∀ c ∈ m, c.1 < 2 ^ aw

theorem portLanes_lt {aw : Nat} {p : WritePort aw} {l : Nat × Byte} (h : l ∈ portLanes p) : l.1 < 2 ^ aw := by
  cases hv : p.valid with
  | false => simp [portLanes, hv] at h
  | true =>
    rw [portLanes_eq_map hv] at h
    obtain ⟨k, _, rfl⟩ := List.mem_map.1 h
    exact (p.addr + BitVec.ofNat aw k).isLt

/-- Offsets are modulo 2^`ADDR_W` (R55), so no event leaves the output space. -/
theorem BufferInv.applyPort {aw : Nat} {m : Memory} (h : BufferInv aw m) (p : WritePort aw) :
    BufferInv aw (applyPort p m) where
  wf := applyPort_wf p h.wf
  space c hc := (Memory.mem_foldl_write hc).elim portLanes_lt (h.space c)

/-! ## The registers -/

section
variable {iw aw : Nat}

/-- What the registers keep: the error record and the phases it goes with. -/
structure RegsInv (r : Regs iw aw) : Prop where
  cause_iff : r.errCause ≠ .none ↔ r.phase = .err
  offset_zero : r.phase ≠ .err → r.errOffset = 0
  scan_offset : r.phase = .err → r.errCause ≠ .malformedTail → r.errOffset = r.idx
  tail_offset : r.errCause = .malformedTail → r.errOffset = 0 ∧ malformedTail r.cnt r.dstate = true
  pad_cause : (r.errCause = .valueAfterPad → r.dstate ≠ .data) ∧ (r.errCause = .thirdPad → r.dstate = .pad2)
  done_tail : r.phase = .done → malformedTail r.cnt r.dstate = false
  idle_clean : r.phase = .idle →
    r.dstate = .data ∧ r.cnt = 0 ∧ r.g0 = 0 ∧ r.g1 = 0 ∧ r.g2 = 0 ∧ r.idx = 0 ∧ r.cursor = 0

variable {r : Regs iw aw}

/-- R27, R28: outside `ERR` the record is clear. -/
theorem RegsInv.record_clear (h : RegsInv r) (hp : r.phase ≠ .err) : r.errCause = .none ∧ r.errOffset = 0 :=
  ⟨not_not.1 (mt h.cause_iff.1 hp), h.offset_zero hp⟩

/-- An open call needs no more than a clear record. -/
theorem regsInv_of_busy (hp : r.phase = .busy) (hrec : r.errCause = .none ∧ r.errOffset = 0) : RegsInv r := by
  obtain ⟨hc, ho⟩ := hrec
  constructor <;> simp [hp, hc, ho]

/-- R137: so does a call that ended in success, with an accepted tail. -/
theorem regsInv_of_done (hp : r.phase = .done) (hrec : r.errCause = .none ∧ r.errOffset = 0)
    (hm : malformedTail r.cnt r.dstate = false) : RegsInv r := by
  obtain ⟨hc, ho⟩ := hrec
  constructor <;> simp [hp, hc, ho, hm]

theorem regsInv_resetRegs : RegsInv (resetRegs iw aw) := by
  constructor <;> simp [resetRegs]

/-- R29: the invariant does not speak of `proto_err`. -/
theorem RegsInv.protocolError (h : RegsInv r) : RegsInv (protocolError r).1 where
  cause_iff := h.cause_iff
  offset_zero := h.offset_zero
  scan_offset := h.scan_offset
  tail_offset := h.tail_offset
  pad_cause := h.pad_cause
  done_tail := h.done_tail
  idle_clean := h.idle_clean

/-- R157: a scan error records the offset `idx`, under the padding state that its cause tells of (R152, R153). -/
theorem regsInv_raise_scan {c : ErrCause} (hc : c = .invalidByte ∨ c = .valueAfterPad ∧ r.dstate ≠ .data ∨
    c = .thirdPad ∧ r.dstate = .pad2) : RegsInv (raiseInvalidInput r r.idx c).1 := by
  rcases hc with rfl | ⟨rfl, hd⟩ | ⟨rfl, hd⟩ <;> constructor <;> simp [raiseInvalidInput, *]

/-- R138: a malformed tail records the offset 0. -/
theorem regsInv_raise_tail (hm : malformedTail r.cnt r.dstate = true) :
    RegsInv (raiseInvalidInput r 0 .malformedTail).1 := by
  constructor <;> simp only [raiseInvalidInput, hm] <;> simp

variable {lut : Lut} {i : Instr} {e : Regs iw aw × Option (WriteEvent aw)}

/-- Every effect keeps the registers' part of the invariant. -/
theorem Does.regsInv (h : Does lut i r e) (hr : RegsInv r) : RegsInv e.1 := by
  have hclear (hp : r.phase = .busy) : r.errCause = .none ∧ r.errOffset = 0 := hr.record_clear (by simp [hp])
  cases h with
  | nothing => exact hr
  | protocol => exact hr.protocolError
  | opens => exact regsInv_of_busy rfl ⟨rfl, rfl⟩
  | skips _ _ _ hp | pads _ _ _ hp | fills _ _ _ hp | emits _ _ _ hp => exact regsInv_of_busy hp (hclear hp)
  | rejects _ _ _ _ _ hm => exact regsInv_raise_tail hm
  | finishes0 _ _ _ _ hp hn | finishes2 _ _ _ _ hp hn =>
    exact regsInv_of_done rfl (hclear hp) (by simp [malformedTail, hn])
  | finishes3 _ _ _ _ hp hn hd => exact regsInv_of_done rfl (hclear hp) (by simp [malformedTail, hn, hd])
  | raises _ _ _ _ c hc =>
    refine regsInv_raise_scan ?_
    rcases hc with ⟨_, hc⟩ | ⟨_, hd, hc⟩ | ⟨_, hd, hc⟩
    · exact .inl hc
    · exact .inr (.inl ⟨hc, hd⟩)
    · exact .inr (.inr ⟨hc, hd⟩)

end

/-! ## The write port -/

section
variable {iw aw : Nat}

/-- R30, R55: what the port shows without an event, and on the lanes an event does not use. -/
structure PortInv (w : WritePort aw) : Prop where
  idle : w.valid = false → w = idlePort aw
  len : w.valid = true → w.len ≠ 0
  lane1 : w.len = 1 → w.data.extractLsb' 8 8 = 0#8
  lane2 : w.len ≠ 3 → w.data.extractLsb' 0 8 = 0#8

theorem portInv_idlePort : PortInv (idlePort aw) := by
  constructor <;> simp

/-- An event of 1 to 3 bytes leaves its other lanes 0 (R55). -/
theorem portInv_present (addr : BitVec aw) {bs : List Byte} (h1 : 1 ≤ bs.length) (h3 : bs.length ≤ 3) :
    PortInv (present (some { addr := addr, bytes := bs })) := by
  obtain ⟨_, lane1, lane2⟩ := lane_bytes (bs.getD 0 0) (bs.getD 1 0) (bs.getD 2 0)
  match bs, h1, h3 with
  | [x], _, _ => exact ⟨nofun, fun _ => by simp, fun _ => lane1, fun _ => lane2⟩
  | [x, y], _, _ => exact ⟨nofun, fun _ => by simp, by simp, fun _ => lane2⟩
  | [x, y, z], _, _ => exact ⟨nofun, fun _ => by simp, by simp, by simp⟩

theorem Does.portInv {lut : Lut} {i : Instr} {r : Regs iw aw} {e : Regs iw aw × Option (WriteEvent aw)}
    (h : Does lut i r e) : PortInv (present e.2) := by
  cases h with
  | emits | finishes2 | finishes3 => exact portInv_present _ (by simp) (by simp)
  | _ => exact portInv_idlePort

end

/-! ## The parts together -/

theorem inv_iff (s : State) :
    s.Inv ↔ BufferInv s.cfg.addrW s.buf ∧ RegsInv s.regs ∧ PortInv s.wr := by
  constructor
  · rintro ⟨hwf, hspace, hcause, hoff, hscan, htail, hpad, hdone, hidle, hport, hlen, h1, h2⟩
    exact ⟨⟨hwf, hspace⟩, ⟨hcause, hoff, hscan, htail, hpad, hdone, hidle⟩, ⟨hport, hlen, h1, h2⟩⟩
  · rintro ⟨⟨hwf, hspace⟩, ⟨hcause, hoff, hscan, htail, hpad, hdone, hidle⟩, ⟨hport, hlen, h1, h2⟩⟩
    exact ⟨hwf, hspace, hcause, hoff, hscan, htail, hpad, hdone, hidle, hport, hlen, h1, h2⟩

/-- Settles O34: an empty buffer, the registers of `resetRegs` and an idle port. -/
theorem resetMeetsInvariant : Obligations.ResetMeetsInvariant :=
  (inv_iff _).2 ⟨⟨reset_buf_wf, nofun⟩, regsInv_resetRegs, portInv_idlePort⟩

/-- Settles O35: the presented event keeps the buffer's part, and a reset or a command's effect the other two. -/
theorem stepKeepsInvariant : Obligations.StepKeepsInvariant := by
  intro s t hs hstep
  obtain ⟨hbuf, hregs, _⟩ := (inv_iff s).1 hs
  rw [inv_iff]
  rcases step_next hstep with ⟨_, rfl⟩ | ⟨_, e, he, rfl⟩
  · exact ⟨hbuf.applyPort s.wr, regsInv_resetRegs, portInv_idlePort⟩
  · exact ⟨hbuf.applyPort s.wr, he.regsInv hregs, he.portInv⟩

end Sys2Proof.Machine

/-! `WF_LUT` (R32): the count of a value in the table is the number of bytes classified as it. -/

namespace Sys2Proof.Machine

/-- The 256 bytes in order. -/
def allBytes : List Byte := (List.finRange 256).map BitVec.ofFin

theorem mem_allBytes (b : Byte) : b ∈ allBytes := List.mem_map.2 ⟨b.toFin, List.mem_finRange _, rfl⟩

theorem allBytes_nodup : allBytes.Nodup :=
  (List.nodup_finRange 256).map fun _ _ h => BitVec.ofFin.inj h

/-- R90: the entries in table order are what the bytes read. -/
theorem lut_toList (lut : Lut) : lut.toList = allBytes.map (lutRead lut) := by
  refine List.ext_getElem (by simp [allBytes]) fun n _ _ => ?_
  simp [allBytes, lutRead]

theorem entryValue?_eq_some_iff (e : Byte) (v : Sextet) : entryValue? e = some v ↔ classifyEntry e = .value v := by
  unfold entryValue?
  cases classifyEntry e <;> simp

/-- A value occurs in the table once for every byte classified as it. -/
theorem count_tableValues (lut : Lut) (v : Sextet) :
    (tableValues lut).count v = allBytes.countP fun b => decide (classify lut b = .value v) := by
  rw [tableValues_eq_filterMap, lut_toList, List.count_filterMap, List.countP_map]
  refine List.countP_congr fun b _ => ?_
  simp only [Function.comp_apply, beq_iff_eq, decide_eq_true_eq]
  exact entryValue?_eq_some_iff _ v

/-- A predicate holds of one byte when it counts one byte. -/
theorem countP_allBytes_eq_one_iff (p : Byte → Prop) [DecidablePred p] :
    (allBytes.countP fun b => decide (p b)) = 1 ↔ ∃! b, p b := by
  rw [← allBytes_nodup.card_eq_countP, Finset.card_eq_one_iff_existsUnique]
  simp [mem_allBytes]

/-- `WF_LUT` counts every value, each the number of its place. -/
theorem wfLut_iff_count (lut : Lut) : wfLut lut = true ↔ ∀ v : Sextet, (tableValues lut).count v = 1 := by
  simp only [wfLut, List.all_eq_true, List.mem_range, beq_iff_eq]
  refine ⟨fun h v => ?_, fun h n _ => h _⟩
  have hv := h v.toNat v.isLt
  rwa [BitVec.ofNat_toNat, BitVec.setWidth_eq] at hv

/-- Settles O9: `WF_LUT` wants every count to be 1, and a value's count is its number of bytes. -/
theorem wfLutMeansInjective : Obligations.WfLutMeansInjective := by
  intro lut
  rw [wfLut_iff_count]
  refine forall_congr' fun v => ?_
  rw [count_tableValues, countP_allBytes_eq_one_iff]

end Sys2Proof.Machine

/-! Noninterference (R23, R133, R155): a relation between register files that every operation of the block respects, with the same
event on both sides, is respected by every instruction. Stale slots, and the input index, are read by none. -/

namespace Sys2Proof.Machine

section
variable {iw aw : Nat}

/-- Two effects with one event, their registers related. -/
def SameEvent (R : Regs iw aw → Regs iw aw → Prop) (e e' : Regs iw aw × Option (WriteEvent aw)) : Prop :=
  e.2 = e'.2 ∧ R e.1 e'.1

/-- Related register files have one `phase` and one `dstate`, and every operation takes them to related ones with one event. -/
structure Respected (R : Regs iw aw → Regs iw aw → Prop) : Prop where
  phase : ∀ {r q}, R r q → q.phase = r.phase
  dstate : ∀ {r q}, R r q → q.dstate = r.dstate
  opens : ∀ {r q}, R r q → SameEvent R (openCall r) (openCall q)
  protocol : ∀ {r q}, R r q → SameEvent R (protocolError r) (protocolError q)
  skips : ∀ {r q}, R r q → SameEvent R (skipByte r) (skipByte q)
  pads : ∀ {r q}, R r q → ∀ d, R { r with dstate := d, idx := r.idx + 1 } { q with dstate := d, idx := q.idx + 1 }
  raises : ∀ {r q}, R r q → ∀ c, SameEvent R (raiseInvalidInput r r.idx c) (raiseInvalidInput q q.idx c)
  appends : ∀ {r q}, R r q → ∀ v, SameEvent R (groupAppend r v) (groupAppend q v)
  finish : ∀ {r q}, R r q → SameEvent R (finalize r) (finalize q)

variable {R : Regs iw aw → Regs iw aw → Prop} {r q : Regs iw aw}

theorem Respected.phaseCase (hR : Respected R) (h : R r q)
    {act : Regs iw aw → Regs iw aw × Option (WriteEvent aw)} (hact : SameEvent R (act r) (act q)) :
    SameEvent R (phaseCase act r) (phaseCase act q) := by
  have hq := hR.phase h
  cases hp : r.phase with
  | busy => rwa [phaseCase_busy hp, phaseCase_busy (hq.trans hp)]
  | err => rw [phaseCase_err hp, phaseCase_err (hq.trans hp)]; exact ⟨rfl, h⟩
  | idle => rw [phaseCase_no_call (.inl hp), phaseCase_no_call (.inl (hq.trans hp))]; exact hR.protocol h
  | done => rw [phaseCase_no_call (.inr hp), phaseCase_no_call (.inr (hq.trans hp))]; exact hR.protocol h

theorem Respected.padByte (hR : Respected R) (h : R r q) : SameEvent R (padByte r) (padByte q) := by
  have hq := hR.dstate h
  cases hd : r.dstate with
  | data => rw [padByte_data hd, padByte_data (hq.trans hd)]; exact ⟨rfl, hR.pads h _⟩
  | pad1 => rw [padByte_pad1 hd, padByte_pad1 (hq.trans hd)]; exact ⟨rfl, hR.pads h _⟩
  | pad2 => rw [padByte_pad2 hd, padByte_pad2 (hq.trans hd)]; exact hR.raises h _

theorem Respected.valueByte (hR : Respected R) (h : R r q) (v : Sextet) :
    SameEvent R (valueByte v r) (valueByte v q) := by
  have hq := hR.dstate h
  by_cases hd : r.dstate = .data
  · rw [valueByte_data v hd, valueByte_data v (hq.trans hd)]; exact hR.appends (hR.skips h).2 v
  · rw [valueByte_not_data v hd, valueByte_not_data v (hq ▸ hd)]; exact hR.raises h _

theorem Respected.classifiedByte (hR : Respected R) (h : R r q) (c : Classification) :
    SameEvent R (classifiedByte c r) (classifiedByte c q) := by
  cases c with
  | skip => exact hR.skips h
  | pad => exact hR.padByte h
  | value v => exact hR.valueByte h v
  | invalid => exact hR.raises h _

theorem Respected.effect (hR : Respected R) (h : R r q) (lut : Lut) (i : Instr) :
    SameEvent R (effect lut i r) (effect lut i q) := by
  cases hc : byteClass lut i with
  | some c =>
    rw [effect_of_byteClass hc, effect_of_byteClass hc]
    exact hR.phaseCase h (hR.classifiedByte h c)
  | none =>
    cases i with
    | nop => exact ⟨rfl, h⟩
    | start => exact hR.opens h
    | rsvd => exact hR.protocol h
    | finish => exact hR.phaseCase h (hR.finish h)
    | byte | byteValue | byteSkip | bytePad | byteInvalid => cases hc

end

theorem Respected.exec {s : State} {R : Regs s.cfg.idxW s.cfg.addrW → Regs s.cfg.idxW s.cfg.addrW → Prop}
    (hR : Respected R) {q : Regs s.cfg.idxW s.cfg.addrW} (h : R s.regs q) (i : Instr) :
    ∃ r r' w, exec i s = .next (s.after r w) ∧ exec i (s.after q s.wr) = .next (s.after r' w) ∧ R r r' := by
  obtain ⟨hevent, hregs⟩ := hR.effect h s.cfg.lut i
  refine ⟨_, _, _, exec_eq_commit i s, ?_, hregs⟩
  rw [hevent]
  exact exec_eq_commit i (s.after q s.wr)

section
variable {iw aw : Nat} {r q : Regs iw aw}

/-! ## The index -/

theorem agreeButIndex_iff : agreeButIndex r q ↔ ∃ i o, q = { r with idx := i, errOffset := o } :=
  ⟨fun h => ⟨_, _, h⟩, by rintro ⟨i, o, rfl⟩; rfl⟩

theorem groupAppend_agreeButIndex (h : agreeButIndex r q) (v : Sextet) :
    SameEvent agreeButIndex (groupAppend r v) (groupAppend q v) := by
  obtain ⟨i, o, rfl⟩ := agreeButIndex_iff.1 h
  unfold groupAppend setSlot
  split_ifs <;> exact ⟨rfl, rfl⟩

theorem finalize_agreeButIndex (h : agreeButIndex r q) : SameEvent agreeButIndex (finalize r) (finalize q) := by
  obtain ⟨i, o, rfl⟩ := agreeButIndex_iff.1 h
  unfold finalize emitTail
  split_ifs <;> exact ⟨rfl, rfl⟩

theorem respected_agreeButIndex : Respected (agreeButIndex (iw := iw) (aw := aw)) where
  phase h := by rw [h]
  dstate h := by rw [h]
  opens h := by rw [h]; exact ⟨rfl, rfl⟩
  protocol h := by rw [h]; exact ⟨rfl, rfl⟩
  skips h := by rw [h]; exact ⟨rfl, rfl⟩
  pads h _ := by rw [h]; rfl
  raises h _ := by rw [h]; exact ⟨rfl, rfl⟩
  appends := groupAppend_agreeButIndex
  finish := finalize_agreeButIndex

/-! ## The stale slots -/

/-- `r` with other values in its slots. -/
def Regs.withSlots (r : Regs iw aw) (g0 g1 g2 : Sextet) : Regs iw aw := { r with g0 := g0, g1 := g1, g2 := g2 }

/-- The filled slots of `r` hold these values (R23). -/
def FilledAre (r : Regs iw aw) (g0 g1 g2 : Sextet) : Prop :=
  (1 ≤ r.cnt.toNat → r.g0 = g0) ∧ (2 ≤ r.cnt.toNat → r.g1 = g1) ∧ (3 ≤ r.cnt.toNat → r.g2 = g2)

theorem agreeButStale_iff :
    agreeButStale r q ↔ ∃ g0 g1 g2, q = r.withSlots g0 g1 g2 ∧ FilledAre r g0 g1 g2 :=
  ⟨fun h => ⟨_, _, _, h⟩, by rintro ⟨g0, g1, g2, rfl, h⟩; exact ⟨rfl, h⟩⟩

theorem agreeButStale_of_cnt_zero {g0 g1 g2 : Sextet} (h : r.cnt = 0) : agreeButStale r (r.withSlots g0 g1 g2) :=
  ⟨rfl, by simp [h], by simp [h], by simp [h]⟩

/-- R140: appending writes the first stale slot, and a full group has none. -/
theorem groupAppend_agreeButStale (h : agreeButStale r q) (v : Sextet) :
    SameEvent agreeButStale (groupAppend r v) (groupAppend q v) := by
  obtain ⟨g0, g1, g2, rfl, h0, h1, h2⟩ := agreeButStale_iff.1 h
  rcases groupAppend_cases r v with ⟨hn, he⟩ | ⟨hn, he⟩ | ⟨hn, he⟩ | ⟨hn, he⟩ <;> rw [he]
  · rw [groupAppend_zero (r := r.withSlots g0 g1 g2) v hn]
    exact ⟨rfl, rfl, fun _ => rfl, by simp, by simp⟩
  · rw [groupAppend_one (r := r.withSlots g0 g1 g2) v hn]
    exact ⟨rfl, rfl, fun _ => h0 (by simp [hn]), fun _ => rfl, by simp⟩
  · rw [groupAppend_two (r := r.withSlots g0 g1 g2) v hn]
    exact ⟨rfl, rfl, fun _ => h0 (by simp [hn]), fun _ => h1 (by simp [hn]), fun _ => rfl⟩
  · rw [groupAppend_three (r := r.withSlots g0 g1 g2) v hn, h0 (by simp [hn]), h1 (by simp [hn]), h2 (by simp [hn])]
    exact ⟨rfl, agreeButStale_of_cnt_zero rfl⟩

/-- R133: the tail is made of the filled slots and the zero fill. -/
theorem finalize_agreeButStale (h : agreeButStale r q) : SameEvent agreeButStale (finalize r) (finalize q) := by
  obtain ⟨g0, g1, g2, rfl, hslots⟩ := agreeButStale_iff.1 h
  have ⟨h0, h1, h2⟩ := hslots
  rcases finalize_cases r with ⟨hm, he⟩ | ⟨hn, he⟩ | ⟨hn, he⟩ | ⟨hn, hd, he⟩ <;> rw [he]
  · rw [finalize_malformed (r := r.withSlots g0 g1 g2) ((malformedTail_iff _ _).1 hm)]
    exact ⟨rfl, rfl, hslots⟩
  · rw [finalize_zero (r := r.withSlots g0 g1 g2) hn]
    exact ⟨rfl, rfl, hslots⟩
  · rw [finalize_two (r := r.withSlots g0 g1 g2) hn]
    refine ⟨?_, rfl, hslots⟩
    rw [h0 (by simp [hn]), h1 (by simp [hn])]; rfl
  · rw [finalize_three (r := r.withSlots g0 g1 g2) hn hd]
    refine ⟨?_, rfl, hslots⟩
    rw [h0 (by simp [hn]), h1 (by simp [hn]), h2 (by simp [hn])]; rfl

/-- An operation on the other registers keeps the filled slots, and so the agreement. -/
theorem respected_agreeButStale : Respected (agreeButStale (iw := iw) (aw := aw)) where
  phase h := by rw [h.1]
  dstate h := by rw [h.1]
  opens h := by rw [h.1]; exact ⟨rfl, agreeButStale_of_cnt_zero rfl⟩
  protocol h := ⟨rfl, by rw [h.1]; rfl, h.2⟩
  skips h := ⟨rfl, by rw [h.1]; rfl, h.2⟩
  pads h _ := ⟨by rw [h.1], h.2⟩
  raises h _ := ⟨rfl, by rw [h.1]; rfl, h.2⟩
  appends := groupAppend_agreeButStale
  finish := finalize_agreeButStale

end

/-! ## The obligations -/

/-- Settles O47: every operation respects the relation, so every instruction does. -/
theorem staleSlotsAreNeverRead : Obligations.StaleSlotsAreNeverRead :=
  fun i _ _ h => respected_agreeButStale.exec h i

/-- Settles O48: every operation respects the relation, so every instruction does. -/
theorem indexDecidesNothingElse : Obligations.IndexDecidesNothingElse :=
  fun i _ _ h => respected_agreeButIndex.exec h i

end Sys2Proof.Machine

/-! An open call (R56, R62): its shape under one instruction, and the bytes that a whole call writes. -/

namespace Sys2Proof.Machine

section
variable {iw aw n : Nat} {lut : Lut} {i : Instr} {r r' : Regs iw aw} {w : WritePort aw}
  {e : Regs iw aw × Option (WriteEvent aw)}

/-! ## The shape of a call -/

/-- `State.callShape`, of the registers alone. -/
def CallShaped (r : Regs iw aw) : Prop :=
  r.phase = .busy → r.cursor.toNat % 3 = 0 ∧ 4 * (r.cursor.toNat / 3) + r.cnt.toNat ≤ r.idx.toNat

theorem callShape_iff (s : State) : s.callShape ↔ CallShaped s.regs := Iff.rfl

theorem callShaped_of_not_busy (hp : r.phase ≠ .busy) : CallShaped r := fun h => absurd h hp

/-- A byte that writes nothing fills at most one slot. -/
theorem CallShaped.accept (h : CallShaped r) (hp : r.phase = .busy) (hidx : r'.idx.toNat = r.idx.toNat + 1)
    (hcursor : r'.cursor = r.cursor) (hcnt : r'.cnt.toNat ≤ r.cnt.toNat + 1) : CallShaped r' := by
  obtain ⟨haligned, hpaid⟩ := h hp
  refine fun _ => ⟨hcursor ▸ haligned, ?_⟩
  rw [hcursor]
  omega

/-- The fourth value of a group: three bytes written for four of input. -/
theorem CallShaped.emit (h : CallShaped r) (hp : r.phase = .busy) (hn : r.cnt = 3)
    (hidx : r'.idx.toNat = r.idx.toNat + 1) (hcursor : r'.cursor.toNat = r.cursor.toNat + 3) (hcnt : r'.cnt = 0) :
    CallShaped r' := by
  obtain ⟨haligned, hpaid⟩ := h hp
  rw [hn, show (3 : BitVec 2).toNat = 3 from rfl] at hpaid
  refine fun _ => ⟨by omega, ?_⟩
  rw [hcnt, show (0 : BitVec 2).toNat = 0 from rfl]
  omega

theorem Does.callShaped (h : Does lut i r e) (hr : CallShaped r) (hidx : r.idx.toNat + 1 < 2 ^ iw)
    (hcursor : r.cursor.toNat + 3 < 2 ^ aw) : CallShaped e.1 := by
  have hnext : (r.idx + 1).toNat = r.idx.toNat + 1 := toNat_add_ofNat_of_lt hidx
  cases h with
  | nothing | protocol => exact hr
  | opens => exact fun _ => by simp
  | skips _ _ _ hp | pads _ _ _ hp => exact hr.accept hp hnext rfl (Nat.le_succ _)
  | fills _ _ _ hp _ _ _ _ _ _ _ hn =>
    refine hr.accept hp hnext rfl ?_
    rcases hn with ⟨hn, rfl, _⟩ | ⟨hn, rfl, _⟩ | ⟨hn, rfl, _⟩ <;> simp [hn]
  | emits _ _ _ hp _ _ _ hn => exact hr.emit hp hn hnext (toNat_add_ofNat_of_lt hcursor) rfl
  | raises | rejects | finishes0 | finishes2 | finishes3 => exact callShaped_of_not_busy nofun

/-! ## The bytes of a whole call -/

/-- R62: at most the estimate for `n` input bytes is written, the event on the port included. -/
structure InsideEstimate (n : Nat) (r : Regs iw aw) (w : WritePort aw) : Prop where
  cursor_le : r.cursor.toNat ≤ estimateDecodedLength n
  below : ∀ l ∈ portLanes w, l.1 < r.cursor.toNat

theorem CallAfter.insideEstimate {m : Nat} (h : CallAfter n r w) (hm : n ≤ m) : InsideEstimate m r w where
  cursor_le := h.cursor_le.trans (estimateDecodedLength_mono hm)
  below := h.below

/-- The bytes read pay for the group that one more value completes. -/
theorem CallAfter.room_group (h : CallAfter n r w) (hn : r.cnt = 3) :
    r.cursor.toNat + 3 ≤ estimateDecodedLength (n + 1) := by
  have haligned := h.aligned
  have hpaid := h.paid
  rw [hn, show (3 : BitVec 2).toNat = 3 from rfl] at hpaid
  unfold estimateDecodedLength
  omega

/-- The bytes read pay for the tail (R132). -/
theorem CallAfter.room_tail (h : CallAfter n r w) :
    r.cursor.toNat + (r.cnt.toNat - 1) ≤ estimateDecodedLength n := by
  have haligned := h.aligned
  have hpaid := h.paid
  have hcnt := r.cnt.isLt
  unfold estimateDecodedLength
  omega

/-- A tail of `k` bytes at the cursor. -/
theorem insideEstimate_tail {bs : List Byte} (h1 : 1 ≤ bs.length) (h3 : bs.length ≤ 3)
    (hroom : r.cursor.toNat + bs.length ≤ estimateDecodedLength n) (hfit : estimateDecodedLength n < 2 ^ aw)
    (hcursor : r'.cursor = r.cursor + BitVec.ofNat aw bs.length) :
    InsideEstimate n r' (present (some { addr := r.cursor, bytes := bs })) := by
  have hspace := hroom.trans_lt hfit
  have hnat : r'.cursor.toNat = r.cursor.toNat + bs.length := by rw [hcursor, toNat_add_ofNat_of_lt hspace]
  refine ⟨hnat ▸ hroom, fun l hl => ?_⟩
  rw [portLanes_present _ _ h1 h3 hspace] at hl
  obtain ⟨k, hk, rfl⟩ := List.mem_mapIdx.1 hl
  simp only
  omega

/-- R62: `FINISH` after `n` bytes. -/
theorem CallAfter.finish (h : CallAfter n r w) (hi : isFinish i = true) (hfit : estimateDecodedLength n < 2 ^ aw)
    (he : Does lut i r e) : InsideEstimate n e.1 (present e.2) := by
  have hroom := h.room_tail
  cases he with
  | nothing | protocol | rejects | finishes0 => exact ⟨h.cursor_le, by simp⟩
  | finishes2 _ _ _ _ _ hn | finishes3 _ _ _ _ _ hn =>
    exact insideEstimate_tail (by simp) (by simp) (by simpa [hn] using hroom) hfit rfl
  | opens _ _ hf | skips _ _ hf | pads _ _ hf | fills _ _ hf | emits _ _ hf | raises _ _ hf =>
    exact absurd (hi.symm.trans hf) nofun

end

/-- R86: the cycles of a call after its `START`. -/
theorem inputs_tail_of_decodeCall {s : State} {x : List Byte} {rest : List PortIn}
    (h : s.inputs = decodeCall x ++ rest) :
    s.inputs.tail = driveWords (byteWords x ++ [encode (.finish 0)]) ++ rest := congrArg List.tail h

theorem byteClass_byte_isSome (lut : Lut) (b : Byte) :
    (byteClass lut (decodeCmd (encode (.byte b)))).isSome = true := by
  rw [decodeCmd_encode_byte]; rfl

/-- A byte carries a call under the host's duties one cycle on. -/
theorem CallAfter.afterWord_byte {s : State} {n : Nat} (h : CallAfter n s.regs s.wr) {m : Nat} (hd : Duties s.cfg m)
    (hm : n + 1 ≤ m) (b : Byte) :
    CallAfter (n + 1) (s.afterWord (encode (.byte b))).regs (s.afterWord (encode (.byte b))).wr :=
  h.succ (byteClass_byte_isSome _ b) ((estimateDecodedLength_mono hm).trans_lt hd.estimate_lt) (effect_does _ _ _)

/-- R61: no cycle of such a call overruns the buffer. -/
theorem CallAfter.not_overruns_of_duties {s : State} {n : Nat} (h : CallAfter n s.regs s.wr) {m : Nat}
    (hd : Duties s.cfg m) (hm : n ≤ m) : overruns s.cfg.outLen s.wr = false :=
  h.not_overruns ((estimateDecodedLength_mono hm).trans hd.buffer)

/-- The cycles after `START`: by induction on the bytes still to come. -/
theorem run_call_insideEstimate (x : List Byte) (rest : List PortIn) (n : Nat) (s : State) (k : Nat)
    (hs : CallAfter n s.regs s.wr) (hd : Duties s.cfg (n + x.length))
    (hi : s.inputs = driveWords (byteWords x ++ [encode (.finish 0)]) ++ rest) (hk : k ≤ x.length + 1) :
    ∃ t, core.run k s = .next t ∧ InsideEstimate (n + x.length) t.regs t.wr := by
  have hle : n ≤ n + x.length := Nat.le_add_right _ _
  have ho := hs.not_overruns_of_duties hd hle
  cases k with
  | zero => exact ⟨s, rfl, hs.insideEstimate hle⟩
  | succ k =>
    cases x with
    | nil =>
      obtain rfl : k = 0 := by simpa using hk
      exact ⟨_, run_succ_word 0 ho hi, hs.finish (by decide) hd.estimate_lt (effect_does _ _ _)⟩
    | cons b x =>
      have hlen : n + (b :: x).length = n + 1 + x.length := by rw [List.length_cons]; omega
      rw [hlen] at hd ⊢
      rw [run_succ_word k ho hi]
      exact run_call_insideEstimate x rest (n + 1) _ k (hs.afterWord_byte hd (Nat.le_add_right _ _) b) hd
        (congrArg List.tail hi) (Nat.le_of_succ_le_succ hk)

/-! ## The obligations -/

/-- Settles O49: `Does.callShaped`, and an event stands at the cursor of an open call. -/
theorem callKeepsItsShape : Obligations.CallKeepsItsShape := by
  intro i s hs hidx hcursor
  obtain ⟨e, he, hx⟩ := exec_does i s
  refine ⟨e.1, present e.2, hx, he.callShaped hs hidx hcursor, fun hv => ?_⟩
  obtain ⟨haddr, hp, _⟩ := he.presented_event hv
  rw [haddr]
  exact (hs hp).1

/-- Settles O50: `START` opens a call that nothing is written in, and `run_call_insideEstimate` follows it. -/
theorem callStaysInsideEstimate : Obligations.CallStaysInsideEstimate := by
  intro s x rest k hd ho hi hk
  obtain ⟨t, hrun, ht⟩ := run_call_insideEstimate x rest 0 (s.afterWord (encode (.start 0))) k callAfter_openCall
    (by rwa [Nat.zero_add]) (inputs_tail_of_decodeCall hi) hk
  rw [Nat.zero_add] at ht
  exact ⟨t, (run_succ_word k ho hi).trans hrun, ht.cursor_le, ht.below⟩

end Sys2Proof.Machine

/-! The block and the source's `decode` (R179): the registers of an open call show the variables of the source's scan (`Scans`), every
byte keeps it so or ends both in the same error, and `FINISH` finalizes as the source does. -/

namespace Sys2Proof.Machine

/-! ## The source's scan, one byte at a time -/

section
variable {lut : Lut} {b : Byte} (x : List Byte) (i pads : Nat) (g : List Sextet) (out : List Byte)

theorem sourceScan_skip (h : classify lut b = .skip) :
    sourceScan lut (b :: x) i pads g out = sourceScan lut x (i + 1) pads g out := by
  simp only [sourceScan, h]

theorem sourceScan_pad (h : classify lut b = .pad) :
    sourceScan lut (b :: x) i pads g out =
      if pads < 2 then sourceScan lut x (i + 1) (pads + 1) g out else .scanError i := by
  simp only [sourceScan, h]

theorem sourceScan_invalid (h : classify lut b = .invalid) :
    sourceScan lut (b :: x) i pads g out = .scanError i := by
  simp only [sourceScan, h]

theorem sourceScan_value {v : Sextet} (h : classify lut b = .value v) :
    sourceScan lut (b :: x) i pads g out =
      if pads = 0 then
        if g.length = 3 then sourceScan lut x (i + 1) pads [] (out ++ sourcePack (g ++ [v]))
        else sourceScan lut x (i + 1) pads (g ++ [v]) out
      else .scanError i := by
  simp only [sourceScan, h]

end

/-! ## The source's bytes of a group -/

theorem ofNat_toNat_div_eq_extract (w : BitVec 24) (k : Nat) :
    BitVec.ofNat 8 (w.toNat / 2 ^ k) = w.extractLsb' k 8 := by
  rw [← Nat.shiftRight_eq_div_pow]; rfl

/-- R53, R142: the source's positional number is the packed word. -/
theorem sourcePack_eq_pack (a b c d : Sextet) : sourcePack [a, b, c, d] = pack a b c d := by
  have hword : sourceWord [a, b, c, d] = (packWord a b c d).toNat := (packIsPositional a b c d).1.symm
  have hlast := ofNat_toNat_div_eq_extract (packWord a b c d) 0
  rw [Nat.pow_zero, Nat.div_one] at hlast
  rw [sourcePack, hword, ofNat_toNat_div_eq_extract, ofNat_toNat_div_eq_extract, hlast, pack]

/-- R133: missing values of a tail are 0. -/
theorem sourcePack_two (a b : Sextet) : sourcePack [a, b] = pack a b 0 0 := sourcePack_eq_pack a b 0 0
theorem sourcePack_three (a b c : Sextet) : sourcePack [a, b, c] = pack a b c 0 := sourcePack_eq_pack a b c 0

section
variable {iw aw : Nat}

/-! ## The bytes of an event -/

/-- The event that writes these bytes, none for no byte. -/
def eventAt (addr : BitVec aw) : List Byte → Option (WriteEvent aw)
  | [] => none
  | b :: bs => some { addr := addr, bytes := b :: bs }

theorem read_applyPort_eventAt {addr : BitVec aw} {bs : List Byte} (h3 : bs.length ≤ 3)
    (hw : addr.toNat + bs.length < 2 ^ aw) (m : Memory) (k : Nat) :
    (applyPort (present (eventAt addr bs)) m).read k =
      if addr.toNat ≤ k ∧ k < addr.toNat + bs.length then bs[k - addr.toNat]? else m.read k := by
  cases bs with
  | nil =>
    rw [if_neg (by rw [List.length_nil]; omega)]; rfl
  | cons b bs => exact read_applyPort_present addr (b :: bs) (by simp) h3 hw m k

/-- The bytes `out` stand in `view` from offset 0, and beyond them what stood in `m`. -/
def Shows (view m : Memory) (out : List Byte) : Prop :=
  ∀ k, view.read k = if k < out.length then out[k]? else m.read k

theorem shows_nil (m : Memory) : Shows m m [] := fun k => by rw [if_neg (by simp)]

/-- R59: an event at the end of the output so far carries it on. -/
theorem Shows.append {view m : Memory} {out bs : List Byte} {addr : BitVec aw} (h : Shows view m out)
    (h3 : bs.length ≤ 3) (ha : addr.toNat = out.length) (hw : out.length + bs.length < 2 ^ aw) :
    Shows (applyPort (present (eventAt addr bs)) view) m (out ++ bs) := by
  intro k
  rw [read_applyPort_eventAt h3 (ha ▸ hw), h k, ha, List.length_append]
  by_cases hk : k < out.length
  · rw [if_neg (by omega), if_pos hk, if_pos (by omega), List.getElem?_append_left hk]
  · by_cases hk' : k < out.length + bs.length
    · rw [if_pos (by omega), if_pos hk', List.getElem?_append_right (by omega)]
    · rw [if_neg (by omega), if_neg hk, if_neg hk']

/-! ## The variables of the scan in the registers -/

/-- The registers show the source's index, pad markers and group, and the number of its bytes so far. -/
structure Scans (r : Regs iw aw) (i pads : Nat) (g : List Sextet) (out : List Byte) : Prop where
  phase : r.phase = .busy
  idx : r.idx.toNat = i
  dstate : (dstateCode r.dstate).toNat = pads
  group : [r.g0, r.g1, r.g2].take r.cnt.toNat = g
  cursor : r.cursor.toNat = out.length

theorem scans_openCall (r : Regs iw aw) : Scans (openCall r).1 0 0 [] [] := by
  constructor <;> simp [dstateCode]

variable {lut : Lut} {r : Regs iw aw} {i pads : Nat} {g : List Sextet} {out : List Byte}

theorem Scans.group_length (h : Scans r i pads g out) : g.length = r.cnt.toNat := by
  rw [← h.group, List.length_take]
  exact Nat.min_eq_left (Nat.le_of_lt_succ r.cnt.isLt)

theorem Scans.group_length_eq_three_iff (h : Scans r i pads g out) : g.length = 3 ↔ r.cnt = 3 := by
  rw [h.group_length]
  exact BitVec.toNat_inj (y := 3#2)

theorem Scans.pads_eq_zero_iff (h : Scans r i pads g out) : pads = 0 ↔ r.dstate = .data := by
  rw [← h.dstate]
  cases r.dstate <;> decide

theorem Scans.pads_lt_two_iff (h : Scans r i pads g out) : pads < 2 ↔ r.dstate ≠ .pad2 := by
  rw [← h.dstate]
  cases r.dstate <;> decide

/-- A byte whose effect is `e` carries the scan on, the event being what the source appends; `x` is still to come. -/
def Accepts (lut : Lut) (x : List Byte) (r : Regs iw aw) (i : Nat) (out : List Byte)
    (e : Regs iw aw × Option (WriteEvent aw)) (res : SourceResult) : Prop :=
  ∃ pads g bs, bs.length ≤ 3 ∧ out.length + bs.length < 2 ^ aw ∧ e.2 = eventAt r.cursor bs ∧
    Scans e.1 (i + 1) pads g (out ++ bs) ∧ res = sourceScan lut x (i + 1) pads g (out ++ bs)

/-- A byte whose effect is `e` ends the scan in an error at its own index. -/
def Rejects (r : Regs iw aw) (i : Nat) (e : Regs iw aw × Option (WriteEvent aw)) (res : SourceResult) : Prop :=
  ∃ c, c ≠ .malformedTail ∧ e = raiseInvalidInput r r.idx c ∧ res = .scanError i

/-- A byte without an event. -/
theorem Scans.accepts_quiet (h : Scans r i pads g out) {r' : Regs iw aw} {pads' : Nat} {g' : List Sextet}
    {res : SourceResult} {x : List Byte} (hscan : Scans r' (i + 1) pads' g' out)
    (hres : res = sourceScan lut x (i + 1) pads' g' out) : Accepts lut x r i out (r', none) res := by
  have hroom : out.length < 2 ^ aw := h.cursor ▸ r.cursor.isLt
  exact ⟨pads', g', [], by simp, hroom, rfl, by rwa [List.append_nil], by rwa [List.append_nil]⟩

section
variable (h : Scans r i pads g out) (hi : i + 1 < 2 ^ iw) (b : Byte) (x : List Byte)
include h hi

theorem Scans.idx_succ : (r.idx + 1).toNat = i + 1 := by
  rw [← h.idx]
  exact toNat_add_ofNat_of_lt (h.idx.symm ▸ hi)

theorem Scans.skip (hb : classify lut b = .skip) :
    Accepts lut x r i out (skipByte r) (sourceScan lut (b :: x) i pads g out) :=
  h.accepts_quiet ⟨h.phase, h.idx_succ hi, h.dstate, h.group, h.cursor⟩ (sourceScan_skip x i pads g out hb)

/-- R105. -/
theorem Scans.pad (hb : classify lut b = .pad) :
    Accepts lut x r i out (padByte r) (sourceScan lut (b :: x) i pads g out) ∨
      Rejects r i (padByte r) (sourceScan lut (b :: x) i pads g out) := by
  rw [sourceScan_pad x i pads g out hb]
  cases hd : r.dstate with
  | data =>
    rw [padByte_data hd, if_pos (h.pads_lt_two_iff.2 (by simp [hd]))]
    exact .inl (h.accepts_quiet ⟨h.phase, h.idx_succ hi, by rw [← h.dstate, hd]; rfl, h.group, h.cursor⟩ rfl)
  | pad1 =>
    rw [padByte_pad1 hd, if_pos (h.pads_lt_two_iff.2 (by simp [hd]))]
    exact .inl (h.accepts_quiet ⟨h.phase, h.idx_succ hi, by rw [← h.dstate, hd]; rfl, h.group, h.cursor⟩ rfl)
  | pad2 =>
    rw [padByte_pad2 hd, if_neg (mt h.pads_lt_two_iff.1 (by simp [hd]))]
    exact .inr ⟨.thirdPad, nofun, rfl, rfl⟩

/-- R140: a value of a group that is not yet full. -/
theorem Scans.fill (hn : r.cnt ≠ 3) (v : Sextet) {res : SourceResult}
    (hres : res = sourceScan lut x (i + 1) pads (g ++ [v]) out) :
    Accepts lut x r i out (groupAppend (consumeByte r) v) res := by
  have hidx := h.idx_succ hi
  have hgroup := h.group
  rcases groupAppend_cases (consumeByte r) v with ⟨hc, he⟩ | ⟨hc, he⟩ | ⟨hc, he⟩ | ⟨hc, _⟩
  case inr.inr.inr => exact absurd hc hn
  all_goals
    rw [consumeByte_cnt] at hc
    rw [hc] at hgroup
    rw [he]
    refine h.accepts_quiet ⟨h.phase, hidx, h.dstate, ?_, h.cursor⟩ hres
    rw [← hgroup]; rfl

/-- R144: the fourth value of a group. -/
theorem Scans.emit (hn : r.cnt = 3) (hroom : r.cursor.toNat + 3 < 2 ^ aw) (v : Sextet) {res : SourceResult}
    (hres : res = sourceScan lut x (i + 1) pads [] (out ++ sourcePack (g ++ [v]))) :
    Accepts lut x r i out (groupAppend (consumeByte r) v) res := by
  have hgroup := h.group
  rw [hn] at hgroup
  have hpack : sourcePack (g ++ [v]) = pack r.g0 r.g1 r.g2 v := by
    rw [← hgroup]; exact sourcePack_eq_pack r.g0 r.g1 r.g2 v
  have hcursor : (r.cursor + 3).toNat = r.cursor.toNat + 3 := toNat_add_ofNat_of_lt hroom
  rw [groupAppend_three (r := consumeByte r) v hn]
  rw [hpack] at hres
  rw [h.cursor] at hroom hcursor
  refine ⟨pads, [], pack r.g0 r.g1 r.g2 v, by simp, by simpa using hroom, rfl, ?_, hres⟩
  exact ⟨h.phase, h.idx_succ hi, h.dstate, rfl, by simpa using hcursor⟩

/-- R106. -/
theorem Scans.value (hroom : r.cnt = 3 → r.cursor.toNat + 3 < 2 ^ aw) {v : Sextet} (hb : classify lut b = .value v) :
    Accepts lut x r i out (valueByte v r) (sourceScan lut (b :: x) i pads g out) ∨
      Rejects r i (valueByte v r) (sourceScan lut (b :: x) i pads g out) := by
  rw [sourceScan_value x i pads g out hb]
  by_cases hd : r.dstate = .data
  · rw [valueByte_data v hd, if_pos (h.pads_eq_zero_iff.2 hd)]
    by_cases hn : r.cnt = 3
    · rw [if_pos (h.group_length_eq_three_iff.2 hn)]
      exact .inl (h.emit hi x hn (hroom hn) v rfl)
    · rw [if_neg (mt h.group_length_eq_three_iff.1 hn)]
      exact .inl (h.fill hi x hn v rfl)
  · rw [valueByte_not_data v hd, if_neg (mt h.pads_eq_zero_iff.1 hd)]
    exact .inr ⟨.valueAfterPad, nofun, rfl, rfl⟩

/-- R104 to R107: a byte carries the two on, or ends both in an error at its index. -/
theorem Scans.byte (hroom : r.cnt = 3 → r.cursor.toNat + 3 < 2 ^ aw) :
    Accepts lut x r i out (classifiedByte (classify lut b) r) (sourceScan lut (b :: x) i pads g out) ∨
      Rejects r i (classifiedByte (classify lut b) r) (sourceScan lut (b :: x) i pads g out) := by
  cases hb : classify lut b with
  | skip => exact .inl (h.skip hi b x hb)
  | pad => exact h.pad hi b x hb
  | value v => exact h.value hi b x hroom hb
  | invalid => exact .inr ⟨.invalidByte, nofun, rfl, sourceScan_invalid x i pads g out hb⟩

end

/-- R131: `FINISH` presents the tail that the source appends, or both reject it. -/
theorem Scans.finalize (h : Scans r i pads g out) (hroom : r.cursor.toNat + (r.cnt.toNat - 1) < 2 ^ aw) :
    (∃ bs, bs.length ≤ 3 ∧ out.length + bs.length < 2 ^ aw ∧
      finalize r = ({ r with phase := .done, cursor := r.cursor + BitVec.ofNat aw bs.length }, eventAt r.cursor bs) ∧
      sourceFinalize pads g out = .ok (out ++ bs)) ∨
    (finalize r = raiseInvalidInput r 0 .malformedTail ∧ sourceFinalize pads g out = .malformedTail) := by
  have hgroup := h.group
  have hlen := h.group_length
  rw [h.cursor] at hroom
  rcases finalize_cases r with ⟨hm, he⟩ | ⟨hn, he⟩ | ⟨hn, he⟩ | ⟨hn, hd, he⟩
  · refine .inr ⟨he, ?_⟩
    rcases (malformedTail_iff _ _).1 hm with hn | ⟨hn, hd⟩
    · simp [sourceFinalize, hlen, hn]
    · have hpads := mt h.pads_lt_two_iff.1 (not_not.2 hd)
      simp [sourceFinalize, hlen, hn, hpads]
  · have hempty : g.length = 0 := by rw [hlen, hn]; rfl
    refine .inl ⟨[], by simp, by simpa [hn] using hroom, ?_, ?_⟩
    · rw [he, List.length_nil, BitVec.add_zero]; rfl
    · rw [sourceFinalize, if_pos hempty, List.append_nil]
  · rw [hn] at hgroup
    refine .inl ⟨(pack r.g0 r.g1 0 0).take 1, by simp, by simpa [hn] using hroom, he, ?_⟩
    rw [← sourcePack_two, ← hgroup]; rfl
  · rw [hn] at hgroup
    refine .inl ⟨(pack r.g0 r.g1 r.g2 0).take 2, by simp, by simpa [hn] using hroom, he, ?_⟩
    have hpads := h.pads_lt_two_iff.2 hd
    rw [← sourcePack_three, ← hgroup]
    simp [sourceFinalize, hpads]

end

/-! ## The end of a call -/

/-- The state `t` tells the outcome `res` of the source, over what the buffer `m` held (R36, R178). -/
structure Recovers (m : Memory) (res : SourceResult) (t : State) : Prop where
  beyond : ∀ k, t.regs.cursor.toNat ≤ k → t.bufferView.read k = m.read k
  ok : ∀ out, res = .ok out →
    t.callResult = some (.ok out.length) ∧ ∀ k, k < out.length → t.bufferView.read k = out[k]?
  scanError : ∀ o, res = .scanError o →
    t.callResult = some (.invalidInput o) ∧ t.regs.errCause ≠ .malformedTail
  malformedTail : res = .malformedTail →
    t.callResult = some (.invalidInput 0) ∧ t.regs.errCause = .malformedTail

section
variable {t : State} {m : Memory} {out : List Byte}

theorem Shows.beyond (h : Shows t.bufferView m out) (hc : t.regs.cursor.toNat = out.length) (k : Nat)
    (hk : t.regs.cursor.toNat ≤ k) : t.bufferView.read k = m.read k := by
  rw [h k, if_neg (by omega)]

theorem recovers_ok (hp : t.regs.phase = .done) (hc : t.regs.cursor.toNat = out.length)
    (h : Shows t.bufferView m out) : Recovers m (.ok out) t where
  beyond := h.beyond hc
  ok := by
    rintro _ ⟨⟩
    exact ⟨(callResult_eq_ok_iff t _).2 ⟨hp, hc.symm⟩, fun k hk => by rw [h k, if_pos hk]⟩
  scanError := nofun
  malformedTail := nofun

theorem recovers_scanError {i : Nat} (hp : t.regs.phase = .err) (ho : t.regs.errOffset.toNat = i)
    (hcause : t.regs.errCause ≠ .malformedTail) (hc : t.regs.cursor.toNat = out.length)
    (h : Shows t.bufferView m out) : Recovers m (.scanError i) t where
  beyond := h.beyond hc
  ok := nofun
  scanError := by
    rintro _ ⟨⟩
    exact ⟨(callResult_eq_invalidInput_iff t _).2 ⟨hp, ho.symm⟩, hcause⟩
  malformedTail := nofun

theorem recovers_malformedTail (hp : t.regs.phase = .err) (ho : t.regs.errOffset = 0)
    (hcause : t.regs.errCause = .malformedTail) (hc : t.regs.cursor.toNat = out.length)
    (h : Shows t.bufferView m out) : Recovers m .malformedTail t where
  beyond := h.beyond hc
  ok := nofun
  scanError := nofun
  malformedTail := fun _ => ⟨(callResult_eq_invalidInput_iff t _).2 ⟨hp, by simp [ho]⟩, hcause⟩

end

/-! ## A call after its error -/

/-- `s` after cycles without an effect: the presented event has reached the buffer, and `rest` is still pending. -/
def State.quiet (s : State) (rest : List PortIn) : State :=
  { s with wr := idlePort s.cfg.addrW, buf := s.bufferView, inputs := rest }

theorem Recovers.quiet {m : Memory} {res : SourceResult} {t : State} (h : Recovers m res t) (rest : List PortIn) :
    Recovers m res (t.quiet rest) :=
  ⟨h.beyond, h.ok, h.scanError, h.malformedTail⟩

/-- R110. -/
theorem afterWord_of_err {s : State} {w : CmdWord} (hp : s.regs.phase = .err)
    (hw : isFinish (decodeCmd w) = true ∨ (byteClass s.cfg.lut (decodeCmd w)).isSome = true) :
    s.afterWord w = s.quiet s.inputs.tail := by
  obtain ⟨act, ha⟩ := effect_eq_phaseCase (r := s.regs) hw
  rw [State.afterWord, ha, phaseCase_err hp]; rfl

/-- R110, R160: the rest of a call after its error. -/
theorem run_call_of_err (x : List Byte) (rest : List PortIn) (s : State) (hp : s.regs.phase = .err)
    (ho : overruns s.cfg.outLen s.wr = false)
    (hi : s.inputs = driveWords (byteWords x ++ [encode (.finish 0)]) ++ rest) :
    core.run (x.length + 1) s = .next (s.quiet rest) := by
  induction x generalizing s with
  | nil =>
    refine (run_succ_word 0 ho hi).trans ?_
    rw [afterWord_of_err hp (.inl (by decide)), hi]; rfl
  | cons b x ih =>
    rw [List.length_cons, run_succ_word _ ho hi, afterWord_of_err hp (.inr (byteClass_byte_isSome _ b)), hi]
    exact ih (s.quiet _) hp (overruns_idlePort _) rfl

/-! ## The call -/

theorem afterWord_byte {s : State} (hp : s.regs.phase = .busy) (b : Byte) :
    s.afterWord (encode (.byte b)) =
      s.afterEdge (classifiedByte (classify s.cfg.lut b) s.regs).1
        (present (classifiedByte (classify s.cfg.lut b) s.regs).2) := by
  rw [State.afterWord, decodeCmd_encode_byte, effect, phaseCase_busy hp]

theorem afterWord_finish {s : State} (hp : s.regs.phase = .busy) :
    s.afterWord (encode (.finish 0)) = s.afterEdge (finalize s.regs).1 (present (finalize s.regs).2) := by
  rw [State.afterWord, decodeCmd_encode_finish, effect, phaseCase_busy hp]

/-- A byte that ends the scan ends the call with the source's offset. -/
theorem recovers_of_rejects {s : State} {i pads : Nat} {g : List Sextet} {out : List Byte} {m : Memory}
    {res : SourceResult} {e : Regs s.cfg.idxW s.cfg.addrW × Option (WriteEvent s.cfg.addrW)}
    (hscan : Scans s.regs i pads g out) (hshow : Shows s.bufferView m out) (h : Rejects s.regs i e res) :
    Recovers m res (s.afterEdge e.1 (present e.2)) := by
  obtain ⟨c, hc, rfl, rfl⟩ := h
  exact recovers_scanError rfl hscan.idx hc hscan.cursor hshow

/-- The cycle of `FINISH`. -/
theorem recovers_afterWord_finish {s : State} {i pads : Nat} {g : List Sextet} {out : List Byte} {m : Memory}
    (hscan : Scans s.regs i pads g out) (hshow : Shows s.bufferView m out)
    (hroom : s.regs.cursor.toNat + (s.regs.cnt.toNat - 1) < 2 ^ s.cfg.addrW) :
    Recovers m (sourceFinalize pads g out) (s.afterWord (encode (.finish 0))) := by
  rw [afterWord_finish hscan.phase]
  rcases hscan.finalize hroom with ⟨bs, h3, hw, he, hres⟩ | ⟨he, hres⟩ <;> rw [he, hres]
  · have hcursor : (s.regs.cursor + BitVec.ofNat s.cfg.addrW bs.length).toNat = (out ++ bs).length := by
      rw [← hscan.cursor] at hw
      rw [toNat_add_ofNat_of_lt hw, List.length_append, hscan.cursor]
    exact recovers_ok rfl hcursor (hshow.append h3 hscan.cursor hw)
  · exact recovers_malformedTail rfl rfl rfl hscan.cursor hshow

/-- The cycles after `START`: by induction on the bytes still to come. -/
theorem run_call_recovers (x : List Byte) (rest : List PortIn) (m : Memory) (i pads : Nat) (g : List Sextet)
    (out : List Byte) (s : State) (hs : CallAfter i s.regs s.wr) (hscan : Scans s.regs i pads g out)
    (hshow : Shows s.bufferView m out) (hd : Duties s.cfg (i + x.length))
    (hi : s.inputs = driveWords (byteWords x ++ [encode (.finish 0)]) ++ rest) :
    ∃ t, core.run (x.length + 1) s = .next t ∧ t.inputs = rest ∧
      Recovers m (sourceScan s.cfg.lut x i pads g out) t := by
  induction x generalizing i pads g out s with
  | nil =>
    have ho := hs.not_overruns_of_duties hd le_rfl
    exact ⟨_, run_succ_word 0 ho hi, congrArg List.tail hi,
      recovers_afterWord_finish hscan hshow (hs.room_tail.trans_lt hd.estimate_lt)⟩
  | cons b x ih =>
    have hlen : i + (b :: x).length = i + 1 + x.length := by rw [List.length_cons]; omega
    rw [hlen] at hd
    have hle : i + 1 ≤ i + 1 + x.length := Nat.le_add_right _ _
    have ho := hs.not_overruns_of_duties hd ((Nat.le_succ i).trans hle)
    have hs' := hs.afterWord_byte hd hle b
    have hroom (hn : s.regs.cnt = 3) : s.regs.cursor.toNat + 3 < 2 ^ s.cfg.addrW :=
      (hs.room_group hn).trans_lt ((estimateDecodedLength_mono hle).trans_lt hd.estimate_lt)
    rw [List.length_cons, run_succ_word _ ho hi]
    rw [afterWord_byte hscan.phase] at hs' ⊢
    rcases hscan.byte (lut := s.cfg.lut) (hle.trans_lt hd.index) b x hroom with
      ⟨pads', g', bs, h3, hw, hevent, hscan', hres⟩ | hrej
    · rw [hres]
      refine ih (i + 1) pads' g' (out ++ bs) _ hs' hscan' ?_ hd (congrArg List.tail hi)
      have hshow' := hshow.append h3 hscan.cursor hw
      rwa [← hevent] at hshow'
    · have ho' := hs'.not_overruns_of_duties hd hle
      have hrec := recovers_of_rejects hscan hshow hrej
      obtain ⟨c, _, he, _⟩ := hrej
      exact ⟨_, run_call_of_err x rest _ (by rw [he]; rfl) ho' (congrArg List.tail hi), rfl, hrec.quiet rest⟩

/-- Settles O52: `START` sets the variables of the scan to their first values, and `run_call_recovers` follows it. -/
theorem decodeRefinesSource : Obligations.DecodeRefinesSource := by
  intro s x rest hd ho hi
  obtain ⟨t, hrun, hrest, ht⟩ := run_call_recovers x rest s.bufferView 0 0 [] [] (s.afterWord (encode (.start 0)))
    callAfter_openCall (scans_openCall s.regs) (shows_nil s.bufferView) (by rwa [Nat.zero_add])
    (inputs_tail_of_decodeCall hi)
  exact ⟨t, (run_succ_word _ ho hi).trans hrun, hrest, ht.beyond, ht.ok, ht.scanError, ht.malformedTail⟩

end Sys2Proof.Machine
